-- ==== Sys2Proof/Word.lean ====
section
/-! DEFINITION. The 32-bit register word and the payload byte (spec/10_state.md R22, spec/20_memory.md R74). -/

namespace Sys2Proof

/-- A 32-bit register value; bit 0 is the least significant bit (00 R10, 10 R22). -/
abbrev Word := BitVec 32

/-- One payload byte of a frame (20 R74). -/
abbrev Byte := BitVec 8

end Sys2Proof
end

