-- ==== Sys2Proof/Syntax.lean ====
section
/-! DEFINITION. The syntax of the block: register names, operand records and the one inductive `Instr` with a
constructor for each row of spec/opcode_table.json (spec/30_encoding.md R90 to R102). -/

namespace Sys2Proof

/-- One of the two hardware transmit slots, 0 or 1 (00 R7, 10 R41). -/
inductive SlotId where
  | slot0 | slot1
  deriving DecidableEq, Repr

/-- The registers by their spec names (10 R20). -/
inductive Reg where
  | mode | cmd | state | int | intMask | lostarb | errcode | rxerrcnt | txerrcnt
  | idcode (k : Fin 6) | idmask (k : Fin 6)
  | nbtp | dbtp | tdcr | rxfifoCtrl | fdtxCtrl
  | txfic | txid | txdat (i : Fin 16)
  | rxport (j : Fin 19)
  deriving DecidableEq, Repr

/-- Every register, RXPORT's read ports last and in rising order (10 R20). -/
def Reg.all : List Reg :=
  [.mode, .cmd, .state, .int, .intMask, .lostarb, .errcode, .rxerrcnt, .txerrcnt,
   .nbtp, .dbtp, .tdcr, .rxfifoCtrl, .fdtxCtrl, .txfic, .txid]
    ++ (List.finRange 6).map .idcode ++ (List.finRange 6).map .idmask
    ++ (List.finRange 16).map .txdat ++ (List.finRange 19).map .rxport

/-- Is this one of the read ports of the receive FIFO, whose offsets may coincide (00 R9)? -/
def Reg.isRxport : Reg → Bool
  | .rxport _ => true
  | _ => false

/-- The abstract bit-timing record (30 R100). -/
structure BitTiming where
  prescaler : Nat
  syncJumpWidth : Nat
  propSeg : Nat
  phaseSeg1 : Nat
  phaseSeg2 : Nat
  threeSamples : Bool
  deriving DecidableEq, Repr

/-- The configuration record `configure` takes (30 R101, there named Config). -/
structure CanConfig where
  nominal : BitTiming
  data : BitTiming
  dataBitrate : Word
  fd : Bool
  loopback : Bool
  deriving DecidableEq, Repr

/-- A logical frame (30 R95). The record is not restricted here: `transmit` refuses a frame that is not well formed
(43 R211). -/
structure Frame where
  id : Word
  isExtended : Bool
  isRemote : Bool
  isFd : Bool
  bitRateSwitch : Bool
  length : Nat
  payload : List Byte
  deriving DecidableEq, Repr

/-- The bus states of the controller handle (10 R46). -/
inductive BusState where
  | stopped | errorActive | errorWarning | errorPassive | busOff
  deriving DecidableEq, Repr

/-- The classes of a bus error (30 R102, R110). -/
inductive ErrKind where
  | bit | form | stuff | other
  deriving DecidableEq, Repr

/-- The direction in which a bus error was seen (30 R102, R110). -/
inductive ErrDir where
  | tx | rx
  deriving DecidableEq, Repr

/-- The bus-error part of a diagnostic frame; the location is present only for `other` (30 R102). -/
structure BusErrorInfo where
  kind : ErrKind
  dir : ErrDir
  location : Option (BitVec 16)
  deriving DecidableEq, Repr

/-- The state-change part of a diagnostic frame (30 R102, 45 R243). -/
structure StateChange where
  txSide : Option BusState
  rxSide : Option BusState
  deriving DecidableEq, Repr

/-- The diagnostic frame the handler builds; a freshly allocated one has every field none or false (30 R102). -/
structure ErrorFrame where
  rxOverflow : Bool := false
  busError : Option BusErrorInfo := none
  arbLost : Option Word := none
  stateChange : Option StateChange := none
  deriving DecidableEq, Repr

/-- The bus engine's spontaneous steps with their operands (30 R94, events 0x01 to 0x08). -/
inductive BusEvent where
  | rxArrive (w : Vector Word 19) (accept : Bool)
  | rxReassert
  | txComplete (slot : SlotId)
  | txWithdraw (slot : SlotId)
  | busError (v : Word)
  | arbLost (c : Word)
  | errState (rxc txc : Word) (warn busoff raiseWarn raisePassive : Bool)
  | otherFlag (n : Fin 8)
  deriving DecidableEq, Repr

/-- One constructor for each row of spec/opcode_table.json. A register write carries its value, a core operation or a
device event its operand record (30 R90, R93, R94). -/
inductive Instr where
  | rdMode
  | wrMode (v : Word)
  | rdCmd
  | wrCmd (v : Word)
  | rdState
  | wrState (v : Word)
  | rdInt
  | wrInt (v : Word)
  | rdIntMask
  | wrIntMask (v : Word)
  | rdLostarb
  | wrLostarb (v : Word)
  | rdErrcode
  | wrErrcode (v : Word)
  | rdRxerrcnt
  | wrRxerrcnt (v : Word)
  | rdTxerrcnt
  | wrTxerrcnt (v : Word)
  | rdNbtp
  | wrNbtp (v : Word)
  | rdDbtp
  | wrDbtp (v : Word)
  | rdTdcr
  | wrTdcr (v : Word)
  | rdFdtxCtrl
  | wrFdtxCtrl (v : Word)
  | rdRxfifoCtrl
  | wrRxfifoCtrl (v : Word)
  | rdIdcode0
  | wrIdcode0 (v : Word)
  | rdIdmask0
  | wrIdmask0 (v : Word)
  | rdIdcode1
  | wrIdcode1 (v : Word)
  | rdIdmask1
  | wrIdmask1 (v : Word)
  | rdIdcode2
  | wrIdcode2 (v : Word)
  | rdIdmask2
  | wrIdmask2 (v : Word)
  | rdIdcode3
  | wrIdcode3 (v : Word)
  | rdIdmask3
  | wrIdmask3 (v : Word)
  | rdIdcode4
  | wrIdcode4 (v : Word)
  | rdIdmask4
  | wrIdmask4 (v : Word)
  | rdIdcode5
  | wrIdcode5 (v : Word)
  | rdIdmask5
  | wrIdmask5 (v : Word)
  | rdTxfic
  | wrTxfic (v : Word)
  | rdTxid
  | wrTxid (v : Word)
  | rdTxdat0
  | wrTxdat0 (v : Word)
  | rdTxdat1
  | wrTxdat1 (v : Word)
  | rdTxdat2
  | wrTxdat2 (v : Word)
  | rdTxdat3
  | wrTxdat3 (v : Word)
  | rdTxdat4
  | wrTxdat4 (v : Word)
  | rdTxdat5
  | wrTxdat5 (v : Word)
  | rdTxdat6
  | wrTxdat6 (v : Word)
  | rdTxdat7
  | wrTxdat7 (v : Word)
  | rdTxdat8
  | wrTxdat8 (v : Word)
  | rdTxdat9
  | wrTxdat9 (v : Word)
  | rdTxdat10
  | wrTxdat10 (v : Word)
  | rdTxdat11
  | wrTxdat11 (v : Word)
  | rdTxdat12
  | wrTxdat12 (v : Word)
  | rdTxdat13
  | wrTxdat13 (v : Word)
  | rdTxdat14
  | wrTxdat14 (v : Word)
  | rdTxdat15
  | wrTxdat15 (v : Word)
  | rdRxport (j : Fin 19)
  | wrRxport (j : Fin 19) (v : Word)
  | opAttach
  | opConfigure (cfg : CanConfig)
  | opStart
  | opStop
  | opTransmit (f : Frame)
  | opIsr
  | opGetBerrCounter
  | opEncodeNominal (t : BitTiming)
  | opEncodeData (t : BitTiming)
  | opComputeTdc (clockFreq dataBitrate : Word)
  | opEnterReset
  | opEnterNormal
  | opReceive
  | opDetach
  | evResetPulse
  | evRxArrive (w : Vector Word 19) (accept : Bool)
  | evRxReassert
  | evTxComplete (slot : SlotId)
  | evTxWithdraw (slot : SlotId)
  | evBusError (v : Word)
  | evArbLost (c : Word)
  | evErrState (rxc txc : Word) (warn busoff raiseWarn raisePassive : Bool)
  | evOtherFlag (n : Fin 8)
  deriving DecidableEq, Repr

end Sys2Proof
end

