-- ==== Sys2Proof/Config.lean ====
section
/-! DEFINITION. The named parameters of spec/00_scope.md R8, the reference assignment P0, the admissibility conditions of
R9, and the free values (draws) of R14 as constants without a body. -/

namespace Sys2Proof

/-- The effect of writing 0 to CMD (00 R8 CMD_ZERO_WRITE). -/
inductive CmdZeroWrite where
  | clearsAll | noEffect
  deriving DecidableEq, Repr

/-- The named parameters of 00 R8. A field of several bits is given by the position of its lowest bit; its width is
fixed by the rules (ERRCODE_LOC 16 bits, ERRCODE_TYPE 3 bits, TDCO 6 bits, the data timing fields 5, 4, 8 and 4 bits). -/
structure Params where
  offMode : Nat
  offCmd : Nat
  offState : Nat
  offInt : Nat
  offIntMask : Nat
  offLostarb : Nat
  offErrcode : Nat
  offRxerrcnt : Nat
  offTxerrcnt : Nat
  offNbtp : Nat
  offDbtp : Nat
  offTdcr : Nat
  offFdtxCtrl : Nat
  offRxfifoCtrl : Nat
  offIdcode : Vector Nat 6
  offIdmask : Vector Nat 6
  offTxfic : Nat
  offTxid : Nat
  offTxdat : Vector Nat 16
  offRxport : Vector Nat 19
  modeWork : Nat
  modeLoopback : Nat
  modeSelftest : Nat
  modeAutoretx : Nat
  modeFd : Nat
  cmdTxreq0 : Nat
  cmdTxreq1 : Nat
  stateErrwarn : Nat
  stateBusoff : Nat
  intTxFinish : Nat
  intRxFinish : Nat
  intRxBufOv : Nat
  intErrWarn : Nat
  intBusErr : Nat
  intPassiveErr : Nat
  intTxLostarb : Nat
  intOther : Vector Nat 8
  errcodeLoc : Nat
  errcodeDir : Nat
  errcodeDirRxValue : Bool
  errcodeType : Nat
  errtypeBit : BitVec 3
  errtypeStuff : BitVec 3
  errtypeForm : BitVec 3
  nbtpSam : Nat
  dbtpTseg1Sh : Nat
  dbtpTseg2Sh : Nat
  dbtpBrpSh : Nat
  dbtpSjwSh : Nat
  dbtpSam : Nat
  tdcrEn : Nat
  tdcrTdcoSh : Nat
  rxfifoEn : Nat
  fdtxEn : Nat
  startIntMask : Word
  cmdZeroWrite : CmdZeroWrite
  rxFifoDepth : Nat
  clockHz : Word
  filterCode : Word
  errcodeAckInvalidates : Bool
  deriving DecidableEq, Repr

/-- The reference assignment P0 of 00 R8. -/
def Params.p0 : Params where
  offMode := 0x000
  offCmd := 0x004
  offState := 0x008
  offInt := 0x00C
  offIntMask := 0x010
  offLostarb := 0x028
  offErrcode := 0x02C
  offRxerrcnt := 0x034
  offTxerrcnt := 0x038
  offNbtp := 0x100
  offDbtp := 0x104
  offTdcr := 0x108
  offFdtxCtrl := 0x114
  offRxfifoCtrl := 0x118
  offIdcode := .ofFn fun k => 0x120 + 8 * k.val
  offIdmask := .ofFn fun k => 0x124 + 8 * k.val
  offTxfic := 0x200
  offTxid := 0x204
  offTxdat := .ofFn fun i => 0x208 + 4 * i.val
  offRxport := .replicate 19 0x400
  modeWork := 0
  modeLoopback := 1
  modeSelftest := 2
  modeAutoretx := 3
  modeFd := 4
  cmdTxreq0 := 0
  cmdTxreq1 := 1
  stateErrwarn := 4
  stateBusoff := 5
  intTxFinish := 0
  intRxFinish := 1
  intRxBufOv := 2
  intErrWarn := 3
  intBusErr := 4
  intPassiveErr := 5
  intTxLostarb := 6
  intOther := .ofFn fun n => 7 + n.val
  errcodeLoc := 0
  errcodeDir := 16
  errcodeDirRxValue := true
  errcodeType := 17
  errtypeBit := 0
  errtypeStuff := 1
  errtypeForm := 2
  nbtpSam := 31
  dbtpTseg1Sh := 0
  dbtpTseg2Sh := 5
  dbtpBrpSh := 9
  dbtpSjwSh := 17
  dbtpSam := 21
  tdcrEn := 0
  tdcrTdcoSh := 1
  rxfifoEn := 0
  fdtxEn := 0
  startIntMask := 0x00000000
  cmdZeroWrite := .clearsAll
  rxFifoDepth := 4
  clockHz := 80000000
  filterCode := 0
  errcodeAckInvalidates := true

/-- The offset of a register under an assignment (00 R8, column "parameter"). -/
def Params.off (p : Params) : Reg → Nat
  | .mode => p.offMode
  | .cmd => p.offCmd
  | .state => p.offState
  | .int => p.offInt
  | .intMask => p.offIntMask
  | .lostarb => p.offLostarb
  | .errcode => p.offErrcode
  | .rxerrcnt => p.offRxerrcnt
  | .txerrcnt => p.offTxerrcnt
  | .idcode k => p.offIdcode[k]
  | .idmask k => p.offIdmask[k]
  | .nbtp => p.offNbtp
  | .dbtp => p.offDbtp
  | .tdcr => p.offTdcr
  | .rxfifoCtrl => p.offRxfifoCtrl
  | .fdtxCtrl => p.offFdtxCtrl
  | .txfic => p.offTxfic
  | .txid => p.offTxid
  | .txdat i => p.offTxdat[i]
  | .rxport j => p.offRxport[j]

/-- The request bit of a slot in CMD (00 R8 CMD_TXREQ(s)). -/
def Params.cmdTxreq (p : Params) : SlotId → Nat
  | .slot0 => p.cmdTxreq0
  | .slot1 => p.cmdTxreq1

/-- No two of the bit fields (lowest bit, width) share a bit. -/
def fieldsDisjoint : List (Nat × Nat) → Bool
  | [] => true
  | a :: rest => rest.all (fun b => a.1 + a.2 ≤ b.1 || b.1 + b.2 ≤ a.1) && fieldsDisjoint rest

/-- Every bit field lies below bit `w` and no two share a bit. -/
def fieldsFit (w : Nat) (fs : List (Nat × Nat)) : Bool :=
  fs.all (fun f => f.1 + f.2 ≤ w) && fieldsDisjoint fs

/-- Offsets are multiples of 4 below 0x1000, all distinct but for the read ports among themselves (00 R9). -/
def Params.offsetsOk (p : Params) : Bool :=
  Reg.all.all fun r =>
    p.off r % 4 == 0 && decide (p.off r < 0x1000) &&
      Reg.all.all fun r' => r == r' || (r.isRxport && r'.isRxport) || p.off r != p.off r'

/-- The seven named INT bits and the eight OTHER bits, as one-bit fields (00 R9, 10 R26). -/
def Params.intFields (p : Params) : List (Nat × Nat) :=
  [(p.intTxFinish, 1), (p.intRxFinish, 1), (p.intRxBufOv, 1), (p.intErrWarn, 1), (p.intBusErr, 1),
   (p.intPassiveErr, 1), (p.intTxLostarb, 1)] ++ p.intOther.toList.map (·, 1)

/-- The fields of DBTP: TSEG1, TSEG2, BRP, SJW and SAM (10 R34). -/
def Params.dbtpFields (p : Params) : List (Nat × Nat) :=
  [(p.dbtpTseg1Sh, 5), (p.dbtpTseg2Sh, 4), (p.dbtpBrpSh, 8), (p.dbtpSjwSh, 4), (p.dbtpSam, 1)]

/-- The admissibility conditions of 00 R9. That the CMD, TDCR and enable bits and DBTP's fields lie in 0..31 is
DEDUCED from the 32-bit width of R22 (log 22). -/
def Params.admissible (p : Params) : Bool :=
  p.offsetsOk
    && fieldsFit 32 [(p.modeWork, 1), (p.modeLoopback, 1), (p.modeSelftest, 1), (p.modeAutoretx, 1), (p.modeFd, 1)]
    && fieldsFit 32 [(p.cmdTxreq0, 1), (p.cmdTxreq1, 1)]
    && fieldsFit 32 [(p.stateErrwarn, 1), (p.stateBusoff, 1)]
    && fieldsFit 15 p.intFields
    && fieldsFit 32 [(p.errcodeLoc, 16), (p.errcodeDir, 1), (p.errcodeType, 3)]
    && p.nbtpSam == 31
    && fieldsFit 32 p.dbtpFields
    && fieldsFit 32 [(p.tdcrEn, 1), (p.tdcrTdcoSh, 6)]
    && decide (p.rxfifoEn < 32) && decide (p.fdtxEn < 32)
    && decide (1 ≤ p.rxFifoDepth)

/-- `p` meets 00 R9. -/
abbrev Params.Admissible (p : Params) : Prop := p.admissible = true

/-- FREE VALUE: the n-th register value this spec calls unspecified (00 R14): RSV bits of a read (10 R43), registers
after a reset pulse (10 R54), a read of the empty FIFO (10 R40), ERRCODE after the acknowledge (70 R346). Nothing is
known of it (log 4). -/
opaque Config.freeWord : Nat → Word

/-- FREE VALUE: the host's answer (ok = true) to an `acquire()` or `alloc()` for which State lists none (00 R14, log 5). -/
opaque Config.freeAnswer : Nat → Bool

/-- FREE VALUE: the host's answer to `clock_rate()` when State lists none (00 R14, log 5). -/
opaque Config.freeClock : Nat → Word

/-- The bus engine's choice among the snapshots of a slot that was requested again while Queued: which one it sends now,
counted from the newest, and whether it goes on with the others (40 R133, 93 I15, log 26). -/
structure TxPick where
  /-- 0 is the newest snapshot; an index past the end names the oldest. -/
  index : Nat
  /-- Are the others still to be sent? -/
  goOn : Bool
  deriving DecidableEq, Repr, Inhabited

/-- FREE VALUE: the bus engine's n-th choice among the snapshots of a slot, where State lists none (93 I15, log 26). -/
opaque Config.freePick : Nat → TxPick

end Sys2Proof
end

