-- ==== Sys2Proof/WellFormed.lean ====
section
/-! DEFINITION. Which instructions have a descriptor and operand words: the naturals of an operand record fit the words
that carry them (log 6), and a RXPORT access names the first port of its offset (log 24). -/

namespace Sys2Proof

/-- A natural that one operand word holds (log 6). -/
def fitsWord (n : Nat) : Bool := decide (n < 2 ^ 32)

/-- Every natural of the record fits its operand word (30 R100, log 6). -/
def BitTiming.fits (t : BitTiming) : Bool :=
  fitsWord t.prescaler && fitsWord t.syncJumpWidth && fitsWord t.propSeg && fitsWord t.phaseSeg1 && fitsWord t.phaseSeg2

/-- Both timings fit their operand words (30 R101, log 6). -/
def CanConfig.fits (c : CanConfig) : Bool := c.nominal.fits && c.data.fits

/-- The length and the payload's length fit their operand words (30 R95, log 6). -/
def Frame.fits (f : Frame) : Bool := fitsWord f.length && fitsWord f.payload.length

/-- No earlier read port has the offset of port `j`, so a decoder that reads the offset answers `j` (00 R9, log 24). -/
def Params.firstPort (p : Params) (j : Fin 19) : Bool :=
  (List.finRange 19).all fun j' => decide (j ≤ j') || p.off (.rxport j') != p.off (.rxport j)

/-- An instruction that a descriptor with operand words stands for, under the assignment `p`. -/
def WellFormed (p : Params) : Instr → Bool
  | .rdMode => true
  | .wrMode _ => true
  | .rdCmd => true
  | .wrCmd _ => true
  | .rdState => true
  | .wrState _ => true
  | .rdInt => true
  | .wrInt _ => true
  | .rdIntMask => true
  | .wrIntMask _ => true
  | .rdLostarb => true
  | .wrLostarb _ => true
  | .rdErrcode => true
  | .wrErrcode _ => true
  | .rdRxerrcnt => true
  | .wrRxerrcnt _ => true
  | .rdTxerrcnt => true
  | .wrTxerrcnt _ => true
  | .rdNbtp => true
  | .wrNbtp _ => true
  | .rdDbtp => true
  | .wrDbtp _ => true
  | .rdTdcr => true
  | .wrTdcr _ => true
  | .rdFdtxCtrl => true
  | .wrFdtxCtrl _ => true
  | .rdRxfifoCtrl => true
  | .wrRxfifoCtrl _ => true
  | .rdIdcode0 => true
  | .wrIdcode0 _ => true
  | .rdIdmask0 => true
  | .wrIdmask0 _ => true
  | .rdIdcode1 => true
  | .wrIdcode1 _ => true
  | .rdIdmask1 => true
  | .wrIdmask1 _ => true
  | .rdIdcode2 => true
  | .wrIdcode2 _ => true
  | .rdIdmask2 => true
  | .wrIdmask2 _ => true
  | .rdIdcode3 => true
  | .wrIdcode3 _ => true
  | .rdIdmask3 => true
  | .wrIdmask3 _ => true
  | .rdIdcode4 => true
  | .wrIdcode4 _ => true
  | .rdIdmask4 => true
  | .wrIdmask4 _ => true
  | .rdIdcode5 => true
  | .wrIdcode5 _ => true
  | .rdIdmask5 => true
  | .wrIdmask5 _ => true
  | .rdTxfic => true
  | .wrTxfic _ => true
  | .rdTxid => true
  | .wrTxid _ => true
  | .rdTxdat0 => true
  | .wrTxdat0 _ => true
  | .rdTxdat1 => true
  | .wrTxdat1 _ => true
  | .rdTxdat2 => true
  | .wrTxdat2 _ => true
  | .rdTxdat3 => true
  | .wrTxdat3 _ => true
  | .rdTxdat4 => true
  | .wrTxdat4 _ => true
  | .rdTxdat5 => true
  | .wrTxdat5 _ => true
  | .rdTxdat6 => true
  | .wrTxdat6 _ => true
  | .rdTxdat7 => true
  | .wrTxdat7 _ => true
  | .rdTxdat8 => true
  | .wrTxdat8 _ => true
  | .rdTxdat9 => true
  | .wrTxdat9 _ => true
  | .rdTxdat10 => true
  | .wrTxdat10 _ => true
  | .rdTxdat11 => true
  | .wrTxdat11 _ => true
  | .rdTxdat12 => true
  | .wrTxdat12 _ => true
  | .rdTxdat13 => true
  | .wrTxdat13 _ => true
  | .rdTxdat14 => true
  | .wrTxdat14 _ => true
  | .rdTxdat15 => true
  | .wrTxdat15 _ => true
  | .rdRxport j => p.firstPort j
  | .wrRxport j _ => p.firstPort j
  | .opAttach => true
  | .opConfigure cfg => cfg.fits
  | .opStart => true
  | .opStop => true
  | .opTransmit f => f.fits
  | .opIsr => true
  | .opGetBerrCounter => true
  | .opEncodeNominal t => t.fits
  | .opEncodeData t => t.fits
  | .opComputeTdc _ _ => true
  | .opEnterReset => true
  | .opEnterNormal => true
  | .opReceive => true
  | .opDetach => true
  | .evResetPulse => true
  | .evRxArrive _ _ => true
  | .evRxReassert => true
  | .evTxComplete _ => true
  | .evTxWithdraw _ => true
  | .evBusError _ => true
  | .evArbLost _ => true
  | .evErrState _ _ _ _ _ _ => true
  | .evOtherFlag _ => true

end Sys2Proof
end

