-- ==== Sys2Proof/Decode.lean ====
section
/-! DEFINITION. The decoder and the encoder of access descriptors (spec/30_encoding.md R90 to R94, R111). A descriptor is 16
bits; the value of a register write and the operand record of an operation or event follow it as 32-bit words, whose layout is
the model's own (log 6). -/

namespace Sys2Proof

/-- Why a descriptor or its operand words are rejected. -/
inductive DecodeError where
  /-- Z, bits 13:12, is not 00 (30 R90). -/
  | zNonzero
  /-- CLASS 00 or 01 and OFF is not a multiple of 4 (30 R90). -/
  | misaligned (off : Nat)
  /-- CLASS 00 or 01 and OFF names no register under the assignment (30 R111). -/
  | noRegister (off : Nat)
  /-- CLASS 10 or 11 and Z2, bits 11:8, is not 0000 (30 R90). -/
  | z2Nonzero
  /-- CLASS 10 and OPN names no core operation (30 R111). -/
  | unassignedOp (opn : Nat)
  /-- CLASS 11 and OPN names no device event (30 R111). -/
  | unassignedEvent (opn : Nat)
  /-- There are fewer operand words than the operand record has (log 6). -/
  | shortOperands
  /-- There are more operand words than the operand record has (log 6). -/
  | trailingOperands
  /-- An operand word is outside the type of its field (log 6). -/
  | badOperand
  deriving DecidableEq, Repr

/-- CLASS, bits 15:14 (30 R90). -/
def descClass (d : BitVec 16) : BitVec 2 := d.extractLsb' 14 2

/-- Z, bits 13:12 (30 R90). -/
def descZ (d : BitVec 16) : BitVec 2 := d.extractLsb' 12 2

/-- OFF, bits 11:0 (30 R90). -/
def descOff (d : BitVec 16) : Nat := (d.extractLsb' 0 12).toNat

/-- Z2, bits 11:8 (30 R90). -/
def descZ2 (d : BitVec 16) : BitVec 4 := d.extractLsb' 8 4

/-- OPN, bits 7:0 (30 R90). -/
def descOpn (d : BitVec 16) : BitVec 8 := d.extractLsb' 0 8

/-- The register at an offset under the assignment: the first in `Reg.all` (30 R92). -/
def Params.regAt (p : Params) (off : Nat) : Option Reg := Reg.all.find? fun r => p.off r == off

/-- The read of register `r` as an instruction (30 R92). -/
def readInstr : Reg → Instr
  | .mode => .rdMode
  | .cmd => .rdCmd
  | .state => .rdState
  | .int => .rdInt
  | .intMask => .rdIntMask
  | .lostarb => .rdLostarb
  | .errcode => .rdErrcode
  | .rxerrcnt => .rdRxerrcnt
  | .txerrcnt => .rdTxerrcnt
  | .nbtp => .rdNbtp
  | .dbtp => .rdDbtp
  | .tdcr => .rdTdcr
  | .fdtxCtrl => .rdFdtxCtrl
  | .rxfifoCtrl => .rdRxfifoCtrl
  | .txfic => .rdTxfic
  | .txid => .rdTxid
  | .idcode k => match k with
    | 0 => .rdIdcode0
    | 1 => .rdIdcode1
    | 2 => .rdIdcode2
    | 3 => .rdIdcode3
    | 4 => .rdIdcode4
    | 5 => .rdIdcode5
  | .idmask k => match k with
    | 0 => .rdIdmask0
    | 1 => .rdIdmask1
    | 2 => .rdIdmask2
    | 3 => .rdIdmask3
    | 4 => .rdIdmask4
    | 5 => .rdIdmask5
  | .txdat k => match k with
    | 0 => .rdTxdat0
    | 1 => .rdTxdat1
    | 2 => .rdTxdat2
    | 3 => .rdTxdat3
    | 4 => .rdTxdat4
    | 5 => .rdTxdat5
    | 6 => .rdTxdat6
    | 7 => .rdTxdat7
    | 8 => .rdTxdat8
    | 9 => .rdTxdat9
    | 10 => .rdTxdat10
    | 11 => .rdTxdat11
    | 12 => .rdTxdat12
    | 13 => .rdTxdat13
    | 14 => .rdTxdat14
    | _ => .rdTxdat15
  | .rxport j => .rdRxport j

/-- The write of `v` to register `r` as an instruction (30 R92). -/
def writeInstr (r : Reg) (v : Word) : Instr :=
  match r with
  | .mode => .wrMode v
  | .cmd => .wrCmd v
  | .state => .wrState v
  | .int => .wrInt v
  | .intMask => .wrIntMask v
  | .lostarb => .wrLostarb v
  | .errcode => .wrErrcode v
  | .rxerrcnt => .wrRxerrcnt v
  | .txerrcnt => .wrTxerrcnt v
  | .nbtp => .wrNbtp v
  | .dbtp => .wrDbtp v
  | .tdcr => .wrTdcr v
  | .fdtxCtrl => .wrFdtxCtrl v
  | .rxfifoCtrl => .wrRxfifoCtrl v
  | .txfic => .wrTxfic v
  | .txid => .wrTxid v
  | .idcode k => match k with
    | 0 => .wrIdcode0 v
    | 1 => .wrIdcode1 v
    | 2 => .wrIdcode2 v
    | 3 => .wrIdcode3 v
    | 4 => .wrIdcode4 v
    | 5 => .wrIdcode5 v
  | .idmask k => match k with
    | 0 => .wrIdmask0 v
    | 1 => .wrIdmask1 v
    | 2 => .wrIdmask2 v
    | 3 => .wrIdmask3 v
    | 4 => .wrIdmask4 v
    | 5 => .wrIdmask5 v
  | .txdat k => match k with
    | 0 => .wrTxdat0 v
    | 1 => .wrTxdat1 v
    | 2 => .wrTxdat2 v
    | 3 => .wrTxdat3 v
    | 4 => .wrTxdat4 v
    | 5 => .wrTxdat5 v
    | 6 => .wrTxdat6 v
    | 7 => .wrTxdat7 v
    | 8 => .wrTxdat8 v
    | 9 => .wrTxdat9 v
    | 10 => .wrTxdat10 v
    | 11 => .wrTxdat11 v
    | 12 => .wrTxdat12 v
    | 13 => .wrTxdat13 v
    | 14 => .wrTxdat14 v
    | _ => .wrTxdat15 v
  | .rxport j => .wrRxport j v

/-- A one-bit operand word: 0 or 1 (log 6). -/
def readFlag (w : Word) : Except DecodeError Bool :=
  if w = 0#32 then .ok false else if w = 1#32 then .ok true else .error .badOperand

/-- A slot operand word: 0 or 1 (30 R94, log 6). -/
def readSlot (w : Word) : Except DecodeError SlotId :=
  if w = 0#32 then .ok .slot0 else if w = 1#32 then .ok .slot1 else .error .badOperand

/-- The flag number of other_flag, 0..7 (30 R94, log 6). -/
def readOther (w : Word) : Except DecodeError (Fin 8) :=
  if h : w.toNat < 8 then .ok ⟨w.toNat, h⟩ else .error .badOperand

/-- A bit-timing record: six words (30 R100, log 6). -/
def readTiming : List Word → Except DecodeError (BitTiming × List Word)
  | w0 :: w1 :: w2 :: w3 :: w4 :: w5 :: rest =>
    match readFlag w5 with
    | .ok b => .ok (⟨w0.toNat, w1.toNat, w2.toNat, w3.toNat, w4.toNat, b⟩, rest)
    | .error e => .error e
  | _ => .error .shortOperands

/-- A configuration record: two timings, the data bit rate, fd and loopback (30 R101, log 6). -/
def readConfig (ws : List Word) : Except DecodeError (CanConfig × List Word) :=
  match readTiming ws with
  | .error e => .error e
  | .ok (n, ws1) =>
    match readTiming ws1 with
    | .error e => .error e
    | .ok (d, ws2) =>
      match ws2 with
      | br :: wf :: wl :: rest =>
        match readFlag wf, readFlag wl with
        | .ok f, .ok l => .ok (⟨n, d, br, f, l⟩, rest)
        | .error e, _ => .error e
        | .ok _, .error e => .error e
      | _ => .error .shortOperands

/-- The four bytes of a payload operand word, the lowest first (log 6, as 20 R74 packs a payload word). -/
def wordBytes (w : Word) : List Byte :=
  [w.extractLsb' 0 8, w.extractLsb' 8 8, w.extractLsb' 16 8, w.extractLsb' 24 8]

/-- The number of words that hold `n` bytes (00 R10). -/
def wordsFor (n : Nat) : Nat := (n + 3) / 4

/-- A frame: the ID, the four flags as bits 0 to 3 of one word, the length, the number of payload bytes, and the payload
packed four bytes to a word (30 R95, log 6). -/
def readFrame : List Word → Except DecodeError (Frame × List Word)
  | wid :: wflags :: wlen :: wcount :: rest =>
    if wflags.extractLsb' 4 28 ≠ 0#28 then .error .badOperand
    else if rest.length < wordsFor wcount.toNat then .error .shortOperands
    else
      .ok (⟨wid, wflags.getLsbD 0, wflags.getLsbD 1, wflags.getLsbD 2, wflags.getLsbD 3, wlen.toNat,
            ((rest.take (wordsFor wcount.toNat)).flatMap wordBytes).take wcount.toNat⟩,
           rest.drop (wordsFor wcount.toNat))
  | _ => .error .shortOperands

/-- The operand of rx_arrive: the 19 words of the entry and the accept bit (30 R94, log 6). -/
def readArrival (ws : List Word) : Except DecodeError ((Vector Word 19 × Bool) × List Word) :=
  if h : (ws.take 19).length = 19 then
    match ws.drop 19 with
    | wa :: rest =>
      match readFlag wa with
      | .ok a => .ok ((⟨(ws.take 19).toArray, by simpa using h⟩, a), rest)
      | .error e => .error e
    | [] => .error .shortOperands
  else .error .shortOperands

/-- The operand of err_state: two counters and four bits (30 R94, log 6). -/
def readErrState : List Word → Except DecodeError (Instr × List Word)
  | rxc :: txc :: w :: b :: rw :: rp :: rest =>
    match readFlag w, readFlag b, readFlag rw, readFlag rp with
    | .ok w, .ok b, .ok rw, .ok rp => .ok (.evErrState rxc txc w b rw rp, rest)
    | _, _, _, _ => .error .badOperand
  | _ => .error .shortOperands

/-- An operand of one word. -/
def readWord : List Word → Except DecodeError (Word × List Word)
  | w :: rest => .ok (w, rest)
  | [] => .error .shortOperands

/-- Apply a constructor to an operand that was read. -/
def withOperand {α : Type} (f : α → Instr) :
    Except DecodeError (α × List Word) → Except DecodeError (Instr × List Word)
  | .ok (a, rest) => .ok (f a, rest)
  | .error e => .error e

/-- Read one operand word and turn it into a value of its type. -/
def readAs {α : Type} (g : Word → Except DecodeError α) (ws : List Word) : Except DecodeError (α × List Word) :=
  match ws with
  | w :: rest =>
    match g w with
    | .ok a => .ok (a, rest)
    | .error e => .error e
  | [] => .error .shortOperands

/-- A core operation by its number (30 R93, R111). -/
def decodeOp (opn : BitVec 8) (ws : List Word) : Except DecodeError (Instr × List Word) :=
  match opn.toNat with
  | 0x01 => .ok (.opAttach, ws)
  | 0x02 => withOperand .opConfigure (readConfig ws)
  | 0x03 => .ok (.opStart, ws)
  | 0x04 => .ok (.opStop, ws)
  | 0x05 => withOperand .opTransmit (readFrame ws)
  | 0x06 => .ok (.opIsr, ws)
  | 0x07 => .ok (.opGetBerrCounter, ws)
  | 0x08 => withOperand .opEncodeNominal (readTiming ws)
  | 0x09 => withOperand .opEncodeData (readTiming ws)
  | 0x0A =>
    match ws with
    | c :: r :: rest => .ok (.opComputeTdc c r, rest)
    | _ => .error .shortOperands
  | 0x0B => .ok (.opEnterReset, ws)
  | 0x0C => .ok (.opEnterNormal, ws)
  | 0x0D => .ok (.opReceive, ws)
  | 0x0E => .ok (.opDetach, ws)
  | n => .error (.unassignedOp n)

/-- A device event by its number (30 R94, R111). -/
def decodeEvent (opn : BitVec 8) (ws : List Word) : Except DecodeError (Instr × List Word) :=
  match opn.toNat with
  | 0x00 => .ok (.evResetPulse, ws)
  | 0x01 => withOperand (fun a => .evRxArrive a.1 a.2) (readArrival ws)
  | 0x02 => .ok (.evRxReassert, ws)
  | 0x03 => withOperand .evTxComplete (readAs readSlot ws)
  | 0x04 => withOperand .evTxWithdraw (readAs readSlot ws)
  | 0x05 => withOperand .evBusError (readWord ws)
  | 0x06 => withOperand .evArbLost (readWord ws)
  | 0x07 => readErrState ws
  | 0x08 => withOperand .evOtherFlag (readAs readOther ws)
  | n => .error (.unassignedEvent n)

/-- The register a CLASS 00 or 01 descriptor names (30 R92, R111). -/
def decodeReg (p : Params) (d : BitVec 16) : Except DecodeError Reg :=
  if descOff d % 4 ≠ 0 then .error (.misaligned (descOff d))
  else
    match p.regAt (descOff d) with
    | some r => .ok r
    | none => .error (.noRegister (descOff d))

/-- The instruction a descriptor and the words after it stand for, with the words it leaves; total, every rejection by
name (30 R90 to R94, R111). -/
def decode (p : Params) (d : BitVec 16) (ws : List Word) : Except DecodeError (Instr × List Word) :=
  if descZ d ≠ 0#2 then .error .zNonzero
  else if descClass d = 0#2 then
    match decodeReg p d with
    | .ok r => .ok (readInstr r, ws)
    | .error e => .error e
  else if descClass d = 1#2 then
    match decodeReg p d with
    | .ok r => withOperand (writeInstr r) (readWord ws)
    | .error e => .error e
  else if descZ2 d ≠ 0#4 then .error .z2Nonzero
  else if descClass d = 2#2 then decodeOp (descOpn d) ws
  else decodeEvent (descOpn d) ws

/-- Decode a whole request: no operand word may be left over (log 6). -/
def decodeRequest (p : Params) (d : BitVec 16) (ws : List Word) : Except DecodeError Instr :=
  match decode p d ws with
  | .ok (i, []) => .ok i
  | .ok (_, _ :: _) => .error .trailingOperands
  | .error e => .error e

/-- The descriptor of a read of register `r`: CLASS 00 (30 R92). -/
def readDesc (p : Params) (r : Reg) : BitVec 16 := BitVec.ofNat 16 (p.off r)

/-- The descriptor of a write of register `r`: CLASS 01 (30 R92). -/
def writeDesc (p : Params) (r : Reg) : BitVec 16 := BitVec.ofNat 16 (0x4000 + p.off r)

/-- The operand word of a bit (log 6). -/
def flagWord (b : Bool) : Word := if b then 1#32 else 0#32

/-- The operand word of a slot (log 6). -/
def slotWord : SlotId → Word
  | .slot0 => 0#32
  | .slot1 => 1#32

/-- The operand words of a bit-timing record (log 6). -/
def timingWords (t : BitTiming) : List Word :=
  [BitVec.ofNat 32 t.prescaler, BitVec.ofNat 32 t.syncJumpWidth, BitVec.ofNat 32 t.propSeg,
   BitVec.ofNat 32 t.phaseSeg1, BitVec.ofNat 32 t.phaseSeg2, flagWord t.threeSamples]

/-- The operand words of a configuration record (log 6). -/
def configWords (c : CanConfig) : List Word :=
  timingWords c.nominal ++ timingWords c.data ++ [c.dataBitrate, flagWord c.fd, flagWord c.loopback]

/-- Pack bytes four to a word, the first in bits 7:0, the last word filled up with zeros (20 R74, log 6). -/
def packBytes : List Byte → List Word
  | [] => []
  | [a] => [0#8 ++ 0#8 ++ 0#8 ++ a]
  | [a, b] => [0#8 ++ 0#8 ++ b ++ a]
  | [a, b, c] => [0#8 ++ c ++ b ++ a]
  | a :: b :: c :: e :: rest => (e ++ c ++ b ++ a) :: packBytes rest

/-- The flags word of a frame operand (log 6). -/
def frameFlags (f : Frame) : Word :=
  BitVec.ofNat 32 (f.isExtended.toNat + 2 * f.isRemote.toNat + 4 * f.isFd.toNat + 8 * f.bitRateSwitch.toNat)

/-- The operand words of a frame (log 6). -/
def frameWords (f : Frame) : List Word :=
  [f.id, frameFlags f, BitVec.ofNat 32 f.length, BitVec.ofNat 32 f.payload.length] ++ packBytes f.payload

/-- The descriptor of an instruction under the assignment `p` (30 R92 to R94). -/
def descriptor (p : Params) : Instr → BitVec 16
  | .rdMode => readDesc p .mode
  | .wrMode _ => writeDesc p .mode
  | .rdCmd => readDesc p .cmd
  | .wrCmd _ => writeDesc p .cmd
  | .rdState => readDesc p .state
  | .wrState _ => writeDesc p .state
  | .rdInt => readDesc p .int
  | .wrInt _ => writeDesc p .int
  | .rdIntMask => readDesc p .intMask
  | .wrIntMask _ => writeDesc p .intMask
  | .rdLostarb => readDesc p .lostarb
  | .wrLostarb _ => writeDesc p .lostarb
  | .rdErrcode => readDesc p .errcode
  | .wrErrcode _ => writeDesc p .errcode
  | .rdRxerrcnt => readDesc p .rxerrcnt
  | .wrRxerrcnt _ => writeDesc p .rxerrcnt
  | .rdTxerrcnt => readDesc p .txerrcnt
  | .wrTxerrcnt _ => writeDesc p .txerrcnt
  | .rdNbtp => readDesc p .nbtp
  | .wrNbtp _ => writeDesc p .nbtp
  | .rdDbtp => readDesc p .dbtp
  | .wrDbtp _ => writeDesc p .dbtp
  | .rdTdcr => readDesc p .tdcr
  | .wrTdcr _ => writeDesc p .tdcr
  | .rdFdtxCtrl => readDesc p .fdtxCtrl
  | .wrFdtxCtrl _ => writeDesc p .fdtxCtrl
  | .rdRxfifoCtrl => readDesc p .rxfifoCtrl
  | .wrRxfifoCtrl _ => writeDesc p .rxfifoCtrl
  | .rdIdcode0 => readDesc p (.idcode 0)
  | .wrIdcode0 _ => writeDesc p (.idcode 0)
  | .rdIdmask0 => readDesc p (.idmask 0)
  | .wrIdmask0 _ => writeDesc p (.idmask 0)
  | .rdIdcode1 => readDesc p (.idcode 1)
  | .wrIdcode1 _ => writeDesc p (.idcode 1)
  | .rdIdmask1 => readDesc p (.idmask 1)
  | .wrIdmask1 _ => writeDesc p (.idmask 1)
  | .rdIdcode2 => readDesc p (.idcode 2)
  | .wrIdcode2 _ => writeDesc p (.idcode 2)
  | .rdIdmask2 => readDesc p (.idmask 2)
  | .wrIdmask2 _ => writeDesc p (.idmask 2)
  | .rdIdcode3 => readDesc p (.idcode 3)
  | .wrIdcode3 _ => writeDesc p (.idcode 3)
  | .rdIdmask3 => readDesc p (.idmask 3)
  | .wrIdmask3 _ => writeDesc p (.idmask 3)
  | .rdIdcode4 => readDesc p (.idcode 4)
  | .wrIdcode4 _ => writeDesc p (.idcode 4)
  | .rdIdmask4 => readDesc p (.idmask 4)
  | .wrIdmask4 _ => writeDesc p (.idmask 4)
  | .rdIdcode5 => readDesc p (.idcode 5)
  | .wrIdcode5 _ => writeDesc p (.idcode 5)
  | .rdIdmask5 => readDesc p (.idmask 5)
  | .wrIdmask5 _ => writeDesc p (.idmask 5)
  | .rdTxfic => readDesc p .txfic
  | .wrTxfic _ => writeDesc p .txfic
  | .rdTxid => readDesc p .txid
  | .wrTxid _ => writeDesc p .txid
  | .rdTxdat0 => readDesc p (.txdat 0)
  | .wrTxdat0 _ => writeDesc p (.txdat 0)
  | .rdTxdat1 => readDesc p (.txdat 1)
  | .wrTxdat1 _ => writeDesc p (.txdat 1)
  | .rdTxdat2 => readDesc p (.txdat 2)
  | .wrTxdat2 _ => writeDesc p (.txdat 2)
  | .rdTxdat3 => readDesc p (.txdat 3)
  | .wrTxdat3 _ => writeDesc p (.txdat 3)
  | .rdTxdat4 => readDesc p (.txdat 4)
  | .wrTxdat4 _ => writeDesc p (.txdat 4)
  | .rdTxdat5 => readDesc p (.txdat 5)
  | .wrTxdat5 _ => writeDesc p (.txdat 5)
  | .rdTxdat6 => readDesc p (.txdat 6)
  | .wrTxdat6 _ => writeDesc p (.txdat 6)
  | .rdTxdat7 => readDesc p (.txdat 7)
  | .wrTxdat7 _ => writeDesc p (.txdat 7)
  | .rdTxdat8 => readDesc p (.txdat 8)
  | .wrTxdat8 _ => writeDesc p (.txdat 8)
  | .rdTxdat9 => readDesc p (.txdat 9)
  | .wrTxdat9 _ => writeDesc p (.txdat 9)
  | .rdTxdat10 => readDesc p (.txdat 10)
  | .wrTxdat10 _ => writeDesc p (.txdat 10)
  | .rdTxdat11 => readDesc p (.txdat 11)
  | .wrTxdat11 _ => writeDesc p (.txdat 11)
  | .rdTxdat12 => readDesc p (.txdat 12)
  | .wrTxdat12 _ => writeDesc p (.txdat 12)
  | .rdTxdat13 => readDesc p (.txdat 13)
  | .wrTxdat13 _ => writeDesc p (.txdat 13)
  | .rdTxdat14 => readDesc p (.txdat 14)
  | .wrTxdat14 _ => writeDesc p (.txdat 14)
  | .rdTxdat15 => readDesc p (.txdat 15)
  | .wrTxdat15 _ => writeDesc p (.txdat 15)
  | .rdRxport j => readDesc p (.rxport j)
  | .wrRxport j _ => writeDesc p (.rxport j)
  | .opAttach => 0x8001#16
  | .opConfigure _ => 0x8002#16
  | .opStart => 0x8003#16
  | .opStop => 0x8004#16
  | .opTransmit _ => 0x8005#16
  | .opIsr => 0x8006#16
  | .opGetBerrCounter => 0x8007#16
  | .opEncodeNominal _ => 0x8008#16
  | .opEncodeData _ => 0x8009#16
  | .opComputeTdc _ _ => 0x800A#16
  | .opEnterReset => 0x800B#16
  | .opEnterNormal => 0x800C#16
  | .opReceive => 0x800D#16
  | .opDetach => 0x800E#16
  | .evResetPulse => 0xC000#16
  | .evRxArrive _ _ => 0xC001#16
  | .evRxReassert => 0xC002#16
  | .evTxComplete _ => 0xC003#16
  | .evTxWithdraw _ => 0xC004#16
  | .evBusError _ => 0xC005#16
  | .evArbLost _ => 0xC006#16
  | .evErrState _ _ _ _ _ _ => 0xC007#16
  | .evOtherFlag _ => 0xC008#16

/-- The operand words of an instruction (30 R90, R93, R94, log 6). -/
def operandWords : Instr → List Word
  | .rdMode => []
  | .wrMode v => [v]
  | .rdCmd => []
  | .wrCmd v => [v]
  | .rdState => []
  | .wrState v => [v]
  | .rdInt => []
  | .wrInt v => [v]
  | .rdIntMask => []
  | .wrIntMask v => [v]
  | .rdLostarb => []
  | .wrLostarb v => [v]
  | .rdErrcode => []
  | .wrErrcode v => [v]
  | .rdRxerrcnt => []
  | .wrRxerrcnt v => [v]
  | .rdTxerrcnt => []
  | .wrTxerrcnt v => [v]
  | .rdNbtp => []
  | .wrNbtp v => [v]
  | .rdDbtp => []
  | .wrDbtp v => [v]
  | .rdTdcr => []
  | .wrTdcr v => [v]
  | .rdFdtxCtrl => []
  | .wrFdtxCtrl v => [v]
  | .rdRxfifoCtrl => []
  | .wrRxfifoCtrl v => [v]
  | .rdIdcode0 => []
  | .wrIdcode0 v => [v]
  | .rdIdmask0 => []
  | .wrIdmask0 v => [v]
  | .rdIdcode1 => []
  | .wrIdcode1 v => [v]
  | .rdIdmask1 => []
  | .wrIdmask1 v => [v]
  | .rdIdcode2 => []
  | .wrIdcode2 v => [v]
  | .rdIdmask2 => []
  | .wrIdmask2 v => [v]
  | .rdIdcode3 => []
  | .wrIdcode3 v => [v]
  | .rdIdmask3 => []
  | .wrIdmask3 v => [v]
  | .rdIdcode4 => []
  | .wrIdcode4 v => [v]
  | .rdIdmask4 => []
  | .wrIdmask4 v => [v]
  | .rdIdcode5 => []
  | .wrIdcode5 v => [v]
  | .rdIdmask5 => []
  | .wrIdmask5 v => [v]
  | .rdTxfic => []
  | .wrTxfic v => [v]
  | .rdTxid => []
  | .wrTxid v => [v]
  | .rdTxdat0 => []
  | .wrTxdat0 v => [v]
  | .rdTxdat1 => []
  | .wrTxdat1 v => [v]
  | .rdTxdat2 => []
  | .wrTxdat2 v => [v]
  | .rdTxdat3 => []
  | .wrTxdat3 v => [v]
  | .rdTxdat4 => []
  | .wrTxdat4 v => [v]
  | .rdTxdat5 => []
  | .wrTxdat5 v => [v]
  | .rdTxdat6 => []
  | .wrTxdat6 v => [v]
  | .rdTxdat7 => []
  | .wrTxdat7 v => [v]
  | .rdTxdat8 => []
  | .wrTxdat8 v => [v]
  | .rdTxdat9 => []
  | .wrTxdat9 v => [v]
  | .rdTxdat10 => []
  | .wrTxdat10 v => [v]
  | .rdTxdat11 => []
  | .wrTxdat11 v => [v]
  | .rdTxdat12 => []
  | .wrTxdat12 v => [v]
  | .rdTxdat13 => []
  | .wrTxdat13 v => [v]
  | .rdTxdat14 => []
  | .wrTxdat14 v => [v]
  | .rdTxdat15 => []
  | .wrTxdat15 v => [v]
  | .rdRxport _ => []
  | .wrRxport _ v => [v]
  | .opAttach => []
  | .opConfigure cfg => configWords cfg
  | .opStart => []
  | .opStop => []
  | .opTransmit f => frameWords f
  | .opIsr => []
  | .opGetBerrCounter => []
  | .opEncodeNominal t => timingWords t
  | .opEncodeData t => timingWords t
  | .opComputeTdc clockFreq dataBitrate => [clockFreq, dataBitrate]
  | .opEnterReset => []
  | .opEnterNormal => []
  | .opReceive => []
  | .opDetach => []
  | .evResetPulse => []
  | .evRxArrive w accept => w.toList ++ [flagWord accept]
  | .evRxReassert => []
  | .evTxComplete slot => [slotWord slot]
  | .evTxWithdraw slot => [slotWord slot]
  | .evBusError v => [v]
  | .evArbLost c => [c]
  | .evErrState rxc txc warn busoff raiseWarn raisePassive => [rxc, txc, flagWord warn, flagWord busoff, flagWord raiseWarn, flagWord raisePassive]
  | .evOtherFlag n => [BitVec.ofNat 32 n.val]

/-- The descriptor and operand words of an instruction (30 R90). -/
def encode (p : Params) (i : Instr) : BitVec 16 × List Word := (descriptor p i, operandWords i)

/-- `n` operand words taken from the bits of `w`, the lowest first. -/
def wordsOf : Nat → Nat → List Word
  | 0, _ => []
  | n + 1, w => BitVec.ofNat 32 w :: wordsOf n (w / 2 ^ 32)

/-- The longest operand record without a payload has 20 words (rx_arrive); one more shows that nothing is read past it. -/
def tableOperandWords : Nat := 21

/-- The operand words in the bits of a table word: those above the 16-bit descriptor, the bits above `nbits` being 0. -/
def tableOperands (nbits w : Nat) : List Word := wordsOf tableOperandWords ((w % 2 ^ nbits) / 2 ^ 16)

/-- The descriptor in the bits of a table word: its first 16 bits. -/
def tableDescriptor (nbits w : Nat) : BitVec 16 := BitVec.ofNat 16 (w % 2 ^ nbits)

/-- The instruction the decoder reads from the bits `w` of a row of spec/opcode_table.json, under P0 as the table's match
values are. -/
def decodeTableWord (nbits w : Nat) : Option Instr :=
  match decode .p0 (tableDescriptor nbits w) (tableOperands nbits w) with
  | .ok (i, _) => some i
  | .error _ => none

end Sys2Proof
end

