-- ==== Sys2Proof/Machine/State.lean ====
section
/-! DEFINITION. The machine's state as plain data (spec/10_state.md R20 to R56, spec/00_scope.md R13 to R15), the reasons a step
can stop, and the state after reset. -/

namespace Sys2Proof.Machine

/-- Why the machine stops for good. -/
inductive Fault where
  /-- Raised by `step` in every state whose fault mark is set: an access at `off`, which is misaligned or names no
  register, was issued by a faulty rule, and the instance takes no further step (20 R75, 10 R51). SAFE: the spec says
  the same. -/
  | unmappedAccess (off : Nat)
  deriving DecidableEq, Repr

/-- Why a request has no meaning. -/
inductive Refusal where
  /-- Raised by `exec` for an instruction that has no meaning yet. SAFE: nothing is claimed of it. -/
  | notModelled (mnemonic : String)
  /-- Raised by `step` for a host request while a core operation is in progress: the model gives no move to it
  (60 R321, R323). SAFE. -/
  | coreBusy
  /-- Raised by `step` for a request made by an agent that it does not belong to: the host or the core naming a
  bus-engine event, the device naming an access or an operation, the core naming a host operation (60 R323). SAFE. -/
  | noMove
  /-- Raised by `step` when the words after a descriptor are no operand record of its type; the spec has no such
  request (30 R93, R94, log 6). SAFE. -/
  | malformedOperands
  deriving DecidableEq, Repr

/-- The refusals of 60 R300, which set the whole-state mark (00 R13). -/
inductive RefuseReason where
  | notConfigured | malformedFrame | invalidTiming | unassignedDescriptor | alreadyAttached | detached
  deriving DecidableEq, Repr

/-- The code of a refusal (60 R300). -/
def RefuseReason.code : RefuseReason → Nat
  | .notConfigured => 16
  | .malformedFrame => 17
  | .invalidTiming => 18
  | .unassignedDescriptor => 19
  | .alreadyAttached => 20
  | .detached => 21

/-- The result of an operation or a register access (30 R90, R93, 60 R300). -/
inductive Result where
  /-- Nothing has ended yet (log 20). -/
  | none
  /-- The value a register read produced (30 R90). -/
  | word (v : Word)
  /-- A register write was performed. -/
  | written
  /-- Code 0 of an operation without a value. -/
  | ok
  /-- Code 0 of transmit: the slot it picked. -/
  | slot (s : SlotId)
  /-- Code 0 of get_berr_counter: (tx, rx). -/
  | berr (tx rx : Word)
  /-- Code 0 of compute_tdc: a u8 or none. -/
  | tdc (t : Option (BitVec 8))
  /-- Code 0 of encode_nominal and encode_data: a u32. -/
  | encoded (v : Word)
  /-- Code 1. -/
  | configError
  /-- Code 2. -/
  | busy
  /-- Code 3. -/
  | resourceError
  /-- Codes 16 to 21. -/
  | refuse (r : RefuseReason)
  /-- Code 32. -/
  | fault (off : Nat)
  deriving DecidableEq, Repr

/-- The outcome code of a result (60 R300); `none` is no outcome and is given 0. -/
def Result.code : Result → Nat
  | .configError => 1
  | .busy => 2
  | .resourceError => 3
  | .refuse r => r.code
  | .fault _ => 32
  | .none | .word _ | .written | .ok | .slot _ | .berr _ _ | .tdc _ | .encoded _ => 0

/-- The 18-word capture of the transmit staging registers (10 R41). -/
structure Snapshot where
  txfic : Word
  txid : Word
  txdat : Vector Word 16
  deriving DecidableEq, Repr

/-- What a transmit slot holds (10 R41). -/
inductive SlotState where
  /-- Nothing to send. -/
  | idle
  /-- `snap` is captured and not yet sent. `older` are the snapshots it replaced, newest first, which the bus engine may
  still send: 40 R133 and 93 I15 leave that to it, and keeping them is the model's form (log 26). -/
  | queued (snap : Snapshot) (older : List Snapshot)
  /-- `snap` is sent. -/
  | sent (snap : Snapshot)
  deriving DecidableEq, Repr

/-- The fields of MODE (10 R23). -/
structure ModeBits where
  work : Bool
  loopback : Bool
  selftest : Bool
  autoretx : Bool
  fd : Bool
  deriving DecidableEq, Repr

/-- The device: the register file of 10 R20 and the hidden state of 10 R40, R41 and 70 R346. RSV bits have no storage
(10 R43), and RXPORT none of its own (10 R39). -/
structure Device where
  /-- MODE's fields (10 R23). -/
  mode : ModeBits
  /-- STATE.ERRWARN (10 R25). -/
  errwarn : Bool
  /-- STATE.BUSOFF (10 R25). -/
  busoff : Bool
  /-- INT bits 14:0 (10 R26). -/
  int : BitVec 15
  /-- INT_MASK (10 R27). -/
  intMask : Word
  /-- LOSTARB (10 R29). -/
  lostarb : Word
  /-- ERRCODE as the bus engine last wrote it (10 R30, log 17). -/
  errcode : Word
  /-- RXERRCNT (10 R31). -/
  rxerrcnt : Word
  /-- TXERRCNT (10 R31). -/
  txerrcnt : Word
  /-- IDCODE(k) (10 R32). -/
  idcode : Vector Word 6
  /-- IDMASK(k) (10 R32). -/
  idmask : Vector Word 6
  /-- NBTP (10 R33). -/
  nbtp : Word
  /-- DBTP; a write stores only the bits of its fields (10 R34, 40 R155, log 17). -/
  dbtp : Word
  /-- TDCR.EN (10 R35). -/
  tdcEn : Bool
  /-- TDCR.TDCO (10 R35). -/
  tdco : BitVec 6
  /-- RXFIFO_CTRL.EN (10 R36). -/
  rxfifoEn : Bool
  /-- FDTX_CTRL.EN (10 R37). -/
  fdtxEn : Bool
  /-- TXFIC, transmit staging (10 R38). -/
  txfic : Word
  /-- TXID, transmit staging (10 R38). -/
  txid : Word
  /-- TXDAT(i), transmit staging (10 R38). -/
  txdat : Vector Word 16
  /-- The receive FIFO, oldest entry first (10 R40). -/
  rxfifo : List (List Word)
  /-- req[0] (10 R41). -/
  req0 : Bool
  /-- req[1] (10 R41). -/
  req1 : Bool
  /-- slot[0] (10 R41). -/
  slot0 : SlotState
  /-- slot[1] (10 R41). -/
  slot1 : SlotState
  /-- The hidden bit errcode_valid (70 R346). -/
  errcodeValid : Bool
  deriving DecidableEq, Repr

/-- The operational mode in the handle (10 R45). -/
inductive CtrlMode where
  | reset | normal
  deriving DecidableEq, Repr

/-- The statistics counters, unbounded (10 R48). -/
structure Stats where
  rxPackets : Nat
  rxBytes : Nat
  txPackets : Nat
  txBytes : Nat
  rxErrors : Nat
  txErrors : Nat
  rxOverErrors : Nat
  rxDropped : Nat
  arbitrationLost : Nat
  busError : Nat
  deriving DecidableEq, Repr

/-- The controller handle (10 R44). -/
structure Handle where
  mode : CtrlMode
  busState : BusState
  clockHz : Word
  txerr : Word
  rxerr : Word
  stats : Stats
  outstanding : List SlotId
  config : Option CanConfig
  /-- The fault mark of this handle, with the offset of the access (10 R51, log 8). -/
  fault : Option Nat
  /-- The refusal mark of this handle (10 R51, log 8). -/
  refused : Bool
  deriving DecidableEq, Repr

/-- Is there a handle (42 R197, R199)? -/
inductive Attachment where
  /-- No attach yet. -/
  | absent
  /-- A valid handle exists. -/
  | live
  /-- The handle was invalidated by detach. -/
  | invalid
  deriving DecidableEq, Repr

/-- The core operations that have steps (30 R93). -/
inductive CoreOp where
  | start | stop | transmit | isr | getBerrCounter
  deriving DecidableEq, Repr

/-- The core's point of control: idle, or the operation in progress and how many of its steps have begun (10 R52). -/
inductive CoreControl where
  | idle
  | running (op : CoreOp) (index : Nat)
  deriving DecidableEq, Repr

/-- The direction of a register access (00 R15). -/
inductive AccessDir where
  | read | write
  deriving DecidableEq, Repr

/-- The events of the observable trace (00 R15, 60 R324 to R326). -/
inductive Event where
  | access (dir : AccessDir) (off : Nat) (value : Word)
  | deliverFrame (f : Frame)
  | deliverErrorFrame (e : ErrorFrame)
  | echoSubmitted (slot : SlotId) (f : Frame)
  | echoComplete (slot : SlotId)
  | queueStop
  | queueResume
  | notifyBusOff
  | assertReset
  | deassertReset
  | acquire (ok : Bool)
  | release
  | alloc (ok : Bool)
  | busTx (slot : SlotId) (snap : Snapshot)
  | rxFromBus (words : Vector Word 19)
  deriving DecidableEq, Repr

/-- Who makes a request (00 R5, 30 R93 "invoked by", R94). -/
inductive Issuer where
  | host | core | device
  deriving DecidableEq, Repr

/-- One request: its issuer, its descriptor and its operand words (30 R90, log 6, log 7). -/
structure Request where
  issuer : Issuer
  desc : BitVec 16
  operands : List Word
  deriving DecidableEq, Repr

/-- The host's coming answers to its draws, oldest first (00 R14, 60 R325, log 5). -/
structure Answers where
  acquire : List Bool
  alloc : List Bool
  clock : List Word
  deriving DecidableEq, Repr

/-- The bus engine's choices among the snapshots of a slot (93 I15, log 26). -/
structure BusPicks where
  /-- The coming choices, oldest first; past their end the free values of Config are taken. -/
  coming : List TxPick
  /-- How many choices have been taken; the free values are indexed by it. -/
  taken : Nat
  deriving DecidableEq, Repr

/-- The whole machine. `inbox`, `schedule`, `answers`, `supplied` and `picks` are the environment's choices as plain data,
and `draws` indexes the free values; these six and `result` are the model's own fields (logs 1, 4, 5, 7, 20, 26). -/
structure State where
  /-- The parameter assignment, fixed for a run (00 R8, log 2). -/
  params : Params
  /-- Registers and hidden state of the device (10 R20 to R43). -/
  dev : Device
  /-- Whether the handle exists (42 R197, R199). -/
  attached : Attachment
  /-- The controller handle (10 R44); meaningful while `attached` is `live`. -/
  handle : Handle
  /-- The whole-state fault mark with the offset of the access, never cleared (00 R13, 10 R51, log 8). -/
  fault : Option Nat
  /-- The whole-state refusal mark, never cleared (00 R13, 10 R51, log 8). -/
  refused : Bool
  /-- The point of control (10 R52). -/
  core : CoreControl
  /-- The result of the last operation or access (60 R300). -/
  result : Result
  /-- The observable trace, oldest event first (00 R15). -/
  trace : List Event
  /-- Requests not yet taken, oldest first (log 7). -/
  inbox : List Request
  /-- For each coming core step, the bus-engine events that fall before it (20 R80, log 1). -/
  schedule : List (List BusEvent)
  /-- The host's coming answers (log 5). -/
  answers : Answers
  /-- The device's coming draws of unspecified register values, oldest first; past its end the free values of Config are
  drawn (00 R14, log 4). -/
  supplied : List Word
  /-- How many draws have been made; the free values are indexed by it (log 4). -/
  draws : Nat
  /-- The bus engine's choices among the snapshots of a slot requested again while Queued (93 I15, log 26). -/
  picks : BusPicks
  deriving DecidableEq, Repr

/-- Every statistics counter 0 (10 R56). -/
def Stats.zero : Stats := ⟨0, 0, 0, 0, 0, 0, 0, 0, 0, 0⟩

/-- The handle attach creates, with the drawn clock (10 R56). -/
def Handle.fresh (clock : Word) : Handle where
  mode := .reset
  busState := .stopped
  clockHz := clock
  txerr := 0
  rxerr := 0
  stats := .zero
  outstanding := []
  config := none
  fault := none
  refused := false

/-- Device state at power-on. The spec states no value (10 R55): DESIGN CHOICE, all zero and empty (log 3). -/
def Device.powerOn : Device where
  mode := ⟨false, false, false, false, false⟩
  errwarn := false
  busoff := false
  int := 0
  intMask := 0
  lostarb := 0
  errcode := 0
  rxerrcnt := 0
  txerrcnt := 0
  idcode := .replicate 6 0
  idmask := .replicate 6 0
  nbtp := 0
  dbtp := 0
  tdcEn := false
  tdco := 0
  rxfifoEn := false
  fdtxEn := false
  txfic := 0
  txid := 0
  txdat := .replicate 16 0
  rxfifo := []
  req0 := false
  req1 := false
  slot0 := .idle
  slot1 := .idle
  errcodeValid := false

/-- The launch premise "powered": no handle, device state as at power-on (60 R328, 10 R55), parameters P0 (log 2), nothing
requested, answered or drawn. -/
def State.reset : State where
  params := .p0
  dev := .powerOn
  attached := .absent
  handle := .fresh 0
  fault := none
  refused := false
  core := .idle
  result := .none
  trace := []
  inbox := []
  schedule := []
  answers := ⟨[], [], []⟩
  supplied := []
  draws := 0
  picks := ⟨[], 0⟩

end Sys2Proof.Machine
end

