-- ==== Sys2Proof/Machine/Operands.lean ====
section
/-! DEFINITION. Bit fields and the operand forms: length codes, DLC/flags and ID words, payload packing, frame decoding and the
decode of ERRCODE (spec/00_scope.md R10, spec/30_encoding.md R96 to R110, spec/43_transmit.md R210 to R213,
spec/44_receive.md R220, R221). -/

namespace Sys2Proof.Machine

/-- `bit(n)`: the word with only bit n set (00 R10). -/
def bit (n : Nat) : Word := 1#32 <<< n

/-- `b << n` for a one-bit value (00 R10). -/
def bitIf (b : Bool) (n : Nat) : Word := if b then bit n else 0#32

/-- The `width` bits from bit `lo` on (00 R10). -/
def fieldMask (lo width : Nat) : Word := BitVec.ofNat 32 (2 ^ width - 1) <<< lo

/-- `field(r, sh, w)` as a natural (41 R187). -/
def field (r : Word) (sh w : Nat) : Nat := (r >>> sh).toNat % 2 ^ w

/-- A read value with the bits outside `mask` taken from a draw (10 R43). -/
def withRsv (mask value fresh : Word) : Word := (value &&& mask) ||| (fresh &&& ~~~mask)

/-- len2dlc; `none` where the length has no code (30 R98, 43 R210). -/
def len2dlc (n : Nat) : Option (BitVec 4) :=
  if n ≤ 8 then some (BitVec.ofNat 4 n)
  else if n = 12 then some 9
  else if n = 16 then some 10
  else if n = 20 then some 11
  else if n = 24 then some 12
  else if n = 32 then some 13
  else if n = 48 then some 14
  else if n = 64 then some 15
  else none

/-- dlc2len (30 R99, 44 R220). -/
def dlc2len (fdf : Bool) (c : BitVec 4) : Nat :=
  if fdf then [0, 1, 2, 3, 4, 5, 6, 7, 8, 12, 16, 20, 24, 32, 48, 64].getD c.toNat 0 else min c.toNat 8

/-- well_formed(f): the frames transmit accepts (43 R211). -/
def wellFormedFrame (f : Frame) : Bool :=
  (f.isFd || decide (f.length ≤ 8))
    && (len2dlc f.length).isSome
    && !(f.isFd && f.isRemote)
    && (!f.bitRateSwitch || f.isFd)
    && (f.isRemote || f.payload.length == f.length)
    && (!f.isRemote || f.payload == [])
    && (if f.isExtended then decide (f.id.toNat < 2 ^ 29) else decide (f.id.toNat < 2 ^ 11))

/-- dlc_word(f), for a well-formed f (43 R212, 30 R96). -/
def dlcWord (f : Frame) : Word :=
  bitIf f.isExtended 7 ||| bitIf f.isRemote 6 ||| bitIf f.isFd 5 ||| bitIf f.bitRateSwitch 4
    ||| ((len2dlc f.length).getD 0).setWidth 32

/-- id_word(f) (43 R212, 30 R97). -/
def idWord (f : Frame) : Word := if f.isExtended then f.id &&& 0x1FFFFFFF#32 else f.id &&& 0x000007FF#32

/-- byte(b) of the staged payload: zero past the length and for a remote frame (43 R213). -/
def payloadByte (f : Frame) (b : Nat) : Byte :=
  if !f.isRemote && decide (b < f.length) then f.payload.getD b 0 else 0

/-- Four bytes in one word, the first in bits 7:0 (20 R74). -/
def littleEndian (b0 b1 b2 b3 : Byte) : Word :=
  b0.setWidth 32 ||| (b1.setWidth 32 <<< 8) ||| (b2.setWidth 32 <<< 16) ||| (b3.setWidth 32 <<< 24)

/-- payload_word(f, i) (43 R213). -/
def payloadWord (f : Frame) (i : Nat) : Word :=
  littleEndian (payloadByte f (4 * i)) (payloadByte f (4 * i + 1)) (payloadByte f (4 * i + 2)) (payloadByte f (4 * i + 3))

/-- The staging registers transmit writes for the payload, with their words: one for each four bytes begun (43 R213, log 14). -/
def payloadWords (f : Frame) : List (Fin 16 × Word) :=
  ((List.finRange 16).take (wordsFor f.length)).map fun i => (i, payloadWord f i.val)

/-- Byte `b` of the payload words of an entry (44 R221, 20 R74). -/
def entryByte (d : List Word) (b : Nat) : Byte := (d.getD (b / 4) 0 >>> (8 * (b % 4))).setWidth 8

/-- decode_frame(w0, w1, d) (44 R221). -/
def decodeFrame (w0 w1 : Word) (d : List Word) : Frame where
  id := if w0.getLsbD 7 then w1 &&& 0x1FFFFFFF#32 else w1 &&& 0x000007FF#32
  isExtended := w0.getLsbD 7
  isRemote := w0.getLsbD 6
  isFd := w0.getLsbD 5
  bitRateSwitch := w0.getLsbD 4 && w0.getLsbD 5
  length := dlc2len (w0.getLsbD 5) (w0.extractLsb' 0 4)
  payload :=
    if w0.getLsbD 6 then []
    else (List.range (dlc2len (w0.getLsbD 5) (w0.extractLsb' 0 4))).map (entryByte d)

/-- The bytes the TX_FINISH step counts for a DLC/flags word (45 R234). -/
def countedBytes (t : Word) : Nat := if t.getLsbD 6 then 0 else dlc2len (t.getLsbD 5) (t.extractLsb' 0 4)

/-- kind(e) (30 R110). -/
def errKind (p : Params) (e : Word) : ErrKind :=
  if e.extractLsb' p.errcodeType 3 = p.errtypeBit then .bit
  else if e.extractLsb' p.errcodeType 3 = p.errtypeForm then .form
  else if e.extractLsb' p.errcodeType 3 = p.errtypeStuff then .stuff
  else .other

/-- dir(e) (30 R110). -/
def errDir (p : Params) (e : Word) : ErrDir :=
  if e.getLsbD p.errcodeDir = p.errcodeDirRxValue then .rx else .tx

/-- location(e) (30 R110). -/
def errLocation (p : Params) (e : Word) : Option (BitVec 16) :=
  if errKind p e = .other then some (e.extractLsb' p.errcodeLoc 16) else none

/-- The decode of ERRCODE (30 R110). -/
def errInfo (p : Params) (e : Word) : BusErrorInfo := ⟨errKind p e, errDir p e, errLocation p e⟩

/-- The TDCR value for an offset (30 R105). -/
def tdcrValue (p : Params) (t : BitVec 8) : Word := (t.setWidth 32 <<< p.tdcrTdcoSh) ||| bit p.tdcrEn

end Sys2Proof.Machine
end

