-- ==== Sys2Proof/Machine/Flags.lean ====
section
/-! DEFINITION. The block's flags (spec/10_state.md R53): the INT latches and the interrupt line, the STATE levels, the CMD
request bits with the slots, the MODE bits and the enable bits, each as the word the rules build of it. -/

namespace Sys2Proof.Machine

/-- Set INT flag `n`, whatever INT_MASK holds (10 R26). -/
def Device.raiseInt (n : Nat) (d : Device) : Device := { d with int := d.int ||| (1#15 <<< n) }

/-- Set INT flag `n` if `b` (46 R266). -/
def Device.raiseIntIf (b : Bool) (n : Nat) (d : Device) : Device := if b then d.raiseInt n else d

/-- INT flag `n` (10 R26). -/
def Device.intFlag (d : Device) (n : Nat) : Bool := d.int.getLsbD n

/-- The interrupt line: an unmasked flag is set (10 R28). -/
def Device.irq (d : Device) : Bool := (d.int &&& ~~~(d.intMask.setWidth 15)) != 0#15

/-- Write-1-to-clear of INT (40 R137). -/
def Device.clearInt (v : Word) (d : Device) : Device := { d with int := d.int &&& ~~~(v.setWidth 15) }

/-- req[s] (10 R41). -/
def Device.req (d : Device) : SlotId → Bool
  | .slot0 => d.req0
  | .slot1 => d.req1

/-- slot[s] (10 R41). -/
def Device.slot (d : Device) : SlotId → SlotState
  | .slot0 => d.slot0
  | .slot1 => d.slot1

/-- Replace slot[s] (10 R41). -/
def Device.setSlot (s : SlotId) (v : SlotState) (d : Device) : Device :=
  match s with
  | .slot0 => { d with slot0 := v }
  | .slot1 => { d with slot1 := v }

/-- The capture of the staging registers (10 R41). -/
def Device.staging (d : Device) : Snapshot := ⟨d.txfic, d.txid, d.txdat⟩

/-- The snapshots of a slot that the bus engine may send, newest first (10 R41, 40 R133, log 26). -/
def SlotState.pending : SlotState → List Snapshot
  | .queued snap older => snap :: older
  | .idle => []
  | .sent _ => []

/-- Request slot s: its request bit becomes 1 and it captures the staging registers (10 R41). A snapshot still Queued is
replaced, and may still be sent (40 R133, log 26). -/
def Device.request (s : SlotId) (d : Device) : Device :=
  match s with
  | .slot0 => { d with req0 := true, slot0 := .queued d.staging d.slot0.pending }
  | .slot1 => { d with req1 := true, slot1 := .queued d.staging d.slot1.pending }

/-- Does the slot hold a frame that is captured and not yet sent (10 R41)? -/
def SlotState.isQueued : SlotState → Bool
  | .queued _ _ => true
  | _ => false

/-- The word of the request bits (40 R132). -/
def cmdBits (p : Params) (d : Device) : Word := bitIf d.req0 p.cmdTxreq0 ||| bitIf d.req1 p.cmdTxreq1

/-- The request bits' positions (10 R24). -/
def cmdMask (p : Params) : Word := bit p.cmdTxreq0 ||| bit p.cmdTxreq1

/-- The word of MODE's fields (40 R130). -/
def modeBits (p : Params) (m : ModeBits) : Word :=
  bitIf m.work p.modeWork ||| bitIf m.loopback p.modeLoopback ||| bitIf m.selftest p.modeSelftest
    ||| bitIf m.autoretx p.modeAutoretx ||| bitIf m.fd p.modeFd

/-- MODE's field positions (10 R23). -/
def modeMask (p : Params) : Word :=
  bit p.modeWork ||| bit p.modeLoopback ||| bit p.modeSelftest ||| bit p.modeAutoretx ||| bit p.modeFd

/-- MODE's fields in a word (40 R131). -/
def modeOfWord (p : Params) (v : Word) : ModeBits where
  work := v.getLsbD p.modeWork
  loopback := v.getLsbD p.modeLoopback
  selftest := v.getLsbD p.modeSelftest
  autoretx := v.getLsbD p.modeAutoretx
  fd := v.getLsbD p.modeFd

/-- The word of the STATE levels (40 R134). -/
def stateBits (p : Params) (d : Device) : Word := bitIf d.errwarn p.stateErrwarn ||| bitIf d.busoff p.stateBusoff

/-- The STATE levels' positions (10 R25). -/
def stateMask (p : Params) : Word := bit p.stateErrwarn ||| bit p.stateBusoff

/-- ERRCODE's field positions (10 R30). -/
def errcodeMask (p : Params) : Word :=
  fieldMask p.errcodeType 3 ||| bit p.errcodeDir ||| fieldMask p.errcodeLoc 16

/-- NBTP's field positions: TSEG1, TSEG2, BRP, SJW in bits 30:0, and SAM (10 R33). -/
def nbtpMask (p : Params) : Word := 0x7FFFFFFF#32 ||| bit p.nbtpSam

/-- DBTP's field positions (10 R34). -/
def dbtpMask (p : Params) : Word :=
  fieldMask p.dbtpTseg1Sh 5 ||| fieldMask p.dbtpTseg2Sh 4 ||| fieldMask p.dbtpBrpSh 8 ||| fieldMask p.dbtpSjwSh 4
    ||| bit p.dbtpSam

/-- The word of TDCR's fields (40 R156). -/
def tdcrBits (p : Params) (d : Device) : Word := (d.tdco.setWidth 32 <<< p.tdcrTdcoSh) ||| bitIf d.tdcEn p.tdcrEn

/-- TDCR's field positions (10 R35). -/
def tdcrMask (p : Params) : Word := fieldMask p.tdcrTdcoSh 6 ||| bit p.tdcrEn

/-- Is some filter pair accept-all (46 R260, 10 R32)? -/
def Device.filterOpen (d : Device) : Bool :=
  d.idmask.toList.any fun m => (m &&& 0x1FFFFFFF#32) == 0x1FFFFFFF#32

end Sys2Proof.Machine
end

