-- ==== Sys2Proof/Machine/Registers.lean ====
section
/-! DEFINITION. What the device answers to each register access and the reset pulse (spec/40_register_ops.md R130 to R170). A read
takes one drawn word `fresh`, from which its RSV bits or an unspecified value come (10_state.md R43); a read whose register
has neither ignores it. -/

namespace Sys2Proof.Machine

/-- The value of a read of MODE (40 R130). -/
def readMode (p : Params) (d : Device) (fresh : Word) : Word := withRsv (modeMask p) (modeBits p d.mode) fresh

/-- The value of a read of CMD (40 R132). -/
def readCmd (p : Params) (d : Device) (fresh : Word) : Word := withRsv (cmdMask p) (cmdBits p d) fresh

/-- The value of a read of STATE (40 R134). -/
def readState (p : Params) (d : Device) (fresh : Word) : Word := withRsv (stateMask p) (stateBits p d) fresh

/-- The value of a read of INT: bits 14:0 are the flags, masked or not (40 R136). -/
def readInt (d : Device) (fresh : Word) : Word := withRsv 0x7FFF#32 (d.int.setWidth 32) fresh

/-- The value of a read of ERRCODE: a draw once the acknowledge has invalidated it (40 R142, 70 R346). -/
def readErrcode (p : Params) (d : Device) (fresh : Word) : Word :=
  if p.errcodeAckInvalidates && !d.errcodeValid then fresh else withRsv (errcodeMask p) d.errcode fresh

/-- The value of a read of NBTP (40 R152). -/
def readNbtp (p : Params) (d : Device) (fresh : Word) : Word := withRsv (nbtpMask p) d.nbtp fresh

/-- The value of a read of DBTP (40 R154). -/
def readDbtp (p : Params) (d : Device) (fresh : Word) : Word := withRsv (dbtpMask p) d.dbtp fresh

/-- The value of a read of TDCR (40 R156). -/
def readTdcr (p : Params) (d : Device) (fresh : Word) : Word := withRsv (tdcrMask p) (tdcrBits p d) fresh

/-- The value of a read of RXFIFO_CTRL (40 R158). -/
def readRxfifoCtrl (p : Params) (d : Device) (fresh : Word) : Word :=
  withRsv (bit p.rxfifoEn) (bitIf d.rxfifoEn p.rxfifoEn) fresh

/-- The value of a read of FDTX_CTRL (40 R160). -/
def readFdtxCtrl (p : Params) (d : Device) (fresh : Word) : Word :=
  withRsv (bit p.fdtxEn) (bitIf d.fdtxEn p.fdtxEn) fresh

/-- The value of a read of RXPORT: the head word of the FIFO, a draw when it is empty (40 R168, 10 R40). -/
def readRxport (d : Device) (fresh : Word) : Word :=
  match d.rxfifo with
  | [] => fresh
  | e :: _ => e.headD fresh

/-- The FIFO after a read of RXPORT: the word read is gone, and its entry with its last word (40 R168, 10 R40). -/
def popFifo : List (List Word) → List (List Word)
  | [] => []
  | e :: rest =>
    match e.tail with
    | [] => rest
    | w :: ws => (w :: ws) :: rest

/-- The value a read of register `r` returns (40 R130 to R168). -/
def regValue (r : Reg) (p : Params) (d : Device) (fresh : Word) : Word :=
  match r with
  | .mode => readMode p d fresh
  | .cmd => readCmd p d fresh
  | .state => readState p d fresh
  | .int => readInt d fresh
  | .intMask => d.intMask
  | .lostarb => d.lostarb
  | .errcode => readErrcode p d fresh
  | .rxerrcnt => d.rxerrcnt
  | .txerrcnt => d.txerrcnt
  | .idcode k => d.idcode[k]
  | .idmask k => d.idmask[k]
  | .nbtp => readNbtp p d fresh
  | .dbtp => readDbtp p d fresh
  | .tdcr => readTdcr p d fresh
  | .rxfifoCtrl => readRxfifoCtrl p d fresh
  | .fdtxCtrl => readFdtxCtrl p d fresh
  | .txfic => d.txfic
  | .txid => d.txid
  | .txdat i => d.txdat[i]
  | .rxport _ => readRxport d fresh

/-- The device after a read of register `r`: only RXPORT has a side effect (20 R76, 10 R39). -/
def regAfterRead (r : Reg) (d : Device) : Device :=
  match r with
  | .rxport _ => { d with rxfifo := popFifo d.rxfifo }
  | _ => d

/-- A write of MODE (40 R131). -/
def writeMode (v : Word) (p : Params) (d : Device) : Device := { d with mode := modeOfWord p v }

/-- Request slot s if `b` (40 R133). -/
def requestIf (b : Bool) (s : SlotId) (d : Device) : Device := if b then d.request s else d

/-- A write of CMD: each request bit that is 1 requests its slot; with both 0 the parameter decides (40 R133). -/
def writeCmd (v : Word) (p : Params) (d : Device) : Device :=
  if v.getLsbD p.cmdTxreq0 || v.getLsbD p.cmdTxreq1 then
    requestIf (v.getLsbD p.cmdTxreq1) .slot1 (requestIf (v.getLsbD p.cmdTxreq0) .slot0 d)
  else
    match p.cmdZeroWrite with
    | .clearsAll => { d with req0 := false, req1 := false }
    | .noEffect => d

/-- A write of INT, the acknowledge: clears the flags whose bit is 1; with BUS_ERR's bit it also invalidates ERRCODE
(40 R137, 70 R346). -/
def writeInt (v : Word) (p : Params) (d : Device) : Device :=
  { d.clearInt v with errcodeValid := d.errcodeValid && !v.getLsbD p.intBusErr }

/-- A write of TDCR (40 R157). -/
def writeTdcr (v : Word) (p : Params) (d : Device) : Device :=
  { d with tdcEn := v.getLsbD p.tdcrEn, tdco := v.extractLsb' p.tdcrTdcoSh 6 }

/-- The device after a write of `v` to register `r`; writes to the read-only registers and to RXPORT have no effect
(40 R131 to R169), and neither have bits written to RSV bits (10 R43, 40 R155). -/
def regWrite (r : Reg) (v : Word) (p : Params) (d : Device) : Device :=
  match r with
  | .mode => writeMode v p d
  | .cmd => writeCmd v p d
  | .state => d
  | .int => writeInt v p d
  | .intMask => { d with intMask := v }
  | .lostarb => d
  | .errcode => d
  | .rxerrcnt => d
  | .txerrcnt => d
  | .idcode k => { d with idcode := d.idcode.set k.val v k.isLt }
  | .idmask k => { d with idmask := d.idmask.set k.val v k.isLt }
  | .nbtp => { d with nbtp := v }
  | .dbtp => { d with dbtp := v &&& dbtpMask p }
  | .tdcr => writeTdcr v p d
  | .rxfifoCtrl => { d with rxfifoEn := v.getLsbD p.rxfifoEn }
  | .fdtxCtrl => { d with fdtxEn := v.getLsbD p.fdtxEn }
  | .txfic => { d with txfic := v }
  | .txid => { d with txid := v }
  | .txdat i => { d with txdat := d.txdat.set i.val v i.isLt }
  | .rxport _ => d

/-- How many words a reset pulse draws (10 R54, log 18). -/
def pulseDraws : Nat := 39

/-- The device after a reset pulse: the values of 10 R54, and a fresh draw, held until written, for every other register
(40 R170). `fresh k` is the k-th word drawn. -/
def pulseDevice (p : Params) (fresh : Nat → Word) : Device where
  mode := modeOfWord p (fresh 0)
  errwarn := false
  busoff := false
  int := 0
  intMask := fresh 1
  lostarb := fresh 2
  errcode := fresh 3
  rxerrcnt := 0
  txerrcnt := 0
  idcode := .ofFn fun k => fresh (4 + k.val)
  idmask := .ofFn fun k => fresh (10 + k.val)
  nbtp := fresh 16
  dbtp := fresh 17
  tdcEn := false
  tdco := (fresh 18).setWidth 6
  rxfifoEn := (fresh 19).getLsbD 0
  fdtxEn := (fresh 20).getLsbD 0
  txfic := fresh 21
  txid := fresh 22
  txdat := .ofFn fun i => fresh (23 + i.val)
  rxfifo := []
  req0 := false
  req1 := false
  slot0 := .idle
  slot1 := .idle
  errcodeValid := false

end Sys2Proof.Machine
end

