-- ==== Sys2Proof/Machine/BusEngine.lean ====
section
/-! DEFINITION. The bus engine's spontaneous steps on the device (spec/46_bus_engine.md R260 to R268): when each is enabled, what it
writes, and what it emits. -/

namespace Sys2Proof.Machine

/-- The enabling condition of a bus-engine step (46 R260 to R268). -/
def busEnabled (d : Device) : BusEvent → Bool
  | .rxArrive _ _ => d.mode.work && d.rxfifoEn
  | .rxReassert => d.mode.work && !d.rxfifo.isEmpty
  | .txComplete s => d.mode.work && (d.slot s).isQueued
  | .txWithdraw s => (d.slot s).isQueued && !d.req s
  | .busError _ => d.mode.work
  | .arbLost _ => d.mode.work && (d.slot0.isQueued || d.slot1.isQueued)
  | .errState _ _ _ _ _ _ => d.mode.work
  | .otherFlag _ => d.mode.work

/-- A frame arrives: filtered out, queued with RX_FINISH, or dropped with RX_BUF_OV when the FIFO is full (46 R260). -/
def rxArrive (p : Params) (w : Vector Word 19) (accept : Bool) (d : Device) : Device :=
  if !(d.filterOpen || accept) then d
  else if d.rxfifo.length < p.rxFifoDepth then
    { d with rxfifo := d.rxfifo ++ [w.toList] }.raiseInt p.intRxFinish
  else d.raiseInt p.intRxBufOv

/-- RX_FINISH is raised again (46 R261). -/
def rxReassert (p : Params) (d : Device) : Device := d.raiseInt p.intRxFinish

/-- What a queued slot sends and what it then holds. With one snapshot, that is sent (46 R262). With older ones the bus engine
chooses which it sends, and whether the others are still to be sent or are dropped: "the old or the new snapshot, or both"
(40 R133, 93 I15, log 26). -/
def sendPick (c : TxPick) (snap : Snapshot) (older : List Snapshot) : Snapshot × SlotState :=
  match older with
  | [] => (snap, .sent snap)
  | _ :: _ =>
    let i := min c.index older.length
    let x := (snap :: older).getD i snap
    match c.goOn, (snap :: older).eraseIdx i with
    | true, y :: rest => (x, .queued y rest)
    | _, _ => (x, .sent x)

/-- A queued slot is sent and TX_FINISH raised (46 R262), with the snapshot `sendPick` gives. -/
def txComplete (p : Params) (s : SlotId) (c : TxPick) (d : Device) : Device :=
  match d.slot s with
  | .queued snap older => (d.setSlot s (sendPick c snap older).2).raiseInt p.intTxFinish
  | _ => d

/-- A queued slot whose request bit was cleared is withdrawn (46 R263). -/
def txWithdraw (s : SlotId) (d : Device) : Device := d.setSlot s .idle

/-- A bus error is recorded (46 R264). -/
def busError (p : Params) (v : Word) (d : Device) : Device :=
  { d with errcode := v, errcodeValid := true }.raiseInt p.intBusErr

/-- An arbitration loss is recorded (46 R265). -/
def arbLost (p : Params) (c : Word) (d : Device) : Device := { d with lostarb := c }.raiseInt p.intTxLostarb

/-- The counters and levels are reported (46 R266). -/
def errState (p : Params) (rxc txc : Word) (warn busoff raiseWarn raisePassive : Bool) (d : Device) : Device :=
  ({ d with rxerrcnt := rxc, txerrcnt := txc, errwarn := warn, busoff := busoff }.raiseIntIf raiseWarn p.intErrWarn
    ).raiseIntIf raisePassive p.intPassiveErr

/-- One of the flags the core does not handle is raised (46 R267). -/
def otherFlag (p : Params) (n : Fin 8) (d : Device) : Device := d.raiseInt p.intOther[n]

/-- How many choices among the snapshots of a slot a bus-engine step takes: one where the slot it sends has older snapshots
(40 R133, 93 I15, log 26). -/
def picksNeeded (d : Device) : BusEvent → Nat
  | .txComplete s =>
    match d.slot s with
    | .queued _ (_ :: _) => 1
    | _ => 0
  | _ => 0

/-- The device after an enabled bus-engine step, with the choice `c` among the snapshots of a slot (46 R260 to R267). -/
def busDevice (p : Params) (c : TxPick) (d : Device) : BusEvent → Device
  | .rxArrive w accept => rxArrive p w accept d
  | .rxReassert => rxReassert p d
  | .txComplete s => txComplete p s c d
  | .txWithdraw s => txWithdraw s d
  | .busError v => busError p v d
  | .arbLost c => arbLost p c d
  | .errState rxc txc w b rw rp => errState p rxc txc w b rw rp d
  | .otherFlag n => otherFlag p n d

/-- What an enabled bus-engine step emits, with the same choice (46 R260, R262, 00 R15). -/
def busTrace (c : TxPick) (d : Device) : BusEvent → List Event
  | .rxArrive w _ => [.rxFromBus w]
  | .txComplete s =>
    match d.slot s with
    | .queued snap older => [.busTx s (sendPick c snap older).1]
    | _ => []
  | _ => []

end Sys2Proof.Machine
end

