-- ==== Sys2Proof/Machine/Ops.lean ====
section
/-! DEFINITION. The named operations on the state: updates, draws, bus-engine steps, the core's steps (register accesses, events,
the reset pulse) with the bus-engine steps that fall before them, and the ways an operation ends: a result, a refusal mark or
the fault mark (spec/00_scope.md R11 to R15, spec/10_state.md R51, R52, spec/20_memory.md R71 to R80,
spec/60_exceptions.md R300). -/

namespace Sys2Proof.Machine

/-- Update the device, which may look at the parameters. -/
def State.updDev (f : Params → Device → Device) (s : State) : State := { s with dev := f s.params s.dev }

/-- Update the handle. -/
def State.updHandle (f : Handle → Handle) (s : State) : State := { s with handle := f s.handle }

/-- Update the statistics counters (10 R48). -/
def State.updStats (f : Stats → Stats) (s : State) : State :=
  { s with handle := { s.handle with stats := f s.handle.stats } }

/-- Append events to the observable trace (00 R15). -/
def State.emitAll (es : List Event) (s : State) : State := { s with trace := s.trace ++ es }

/-- Append an event to the observable trace (00 R11, R15). -/
def State.emit (e : Event) (s : State) : State := s.emitAll [e]

/-- Set the result. -/
def State.setResult (r : Result) (s : State) : State := { s with result := r }

/-- Set the point of control (10 R52). -/
def State.setCore (c : CoreControl) (s : State) : State := { s with core := c }

/-- Set whether the handle exists. -/
def State.setAttached (a : Attachment) (s : State) : State := { s with attached := a }

/-- The handle after a refusal: its own mark is set, where there is a valid handle (10 R44, R51, log 8). -/
def State.refusedHandle (s : State) : Handle :=
  if s.attached = .live then { s.handle with refused := true } else s.handle

/-- The handle after a fault: its own mark is set, where there is a valid handle (10 R44, R51, log 8). -/
def State.faultedHandle (off : Nat) (s : State) : Handle :=
  if s.attached = .live then { s.handle with fault := some off } else s.handle

/-- Set the refusal marks, the state's and the handle's (00 R13, 10 R51, log 8). -/
def State.markRefused (s : State) : State := { s with refused := true, handle := s.refusedHandle }

/-- Set the fault marks, the state's and the handle's (10 R51, log 8). -/
def State.markFault (off : Nat) (s : State) : State := { s with fault := some off, handle := s.faultedHandle off }

/-- Replace the requests not yet taken. -/
def State.setInbox (q : List Request) (s : State) : State := { s with inbox := q }

/-- Replace the schedule of bus-engine events. -/
def State.setSchedule (q : List (List BusEvent)) (s : State) : State := { s with schedule := q }

/-- Replace the host's coming answers. -/
def State.setAnswers (a : Answers) (s : State) : State := { s with answers := a }

/-- Count `k` more draws (log 4). -/
def State.addDraws (k : Nat) (s : State) : State := { s with draws := s.draws + k }

/-- `k` words have been drawn (log 4). -/
def State.takeWords (k : Nat) (s : State) : State := { s with supplied := s.supplied.drop k, draws := s.draws + k }

/-- The k-th word drawn from here on: the one supplied, or a free value where none is (00 R14, log 4). -/
def State.fresh (s : State) (k : Nat) : Word :=
  match s.supplied[k]? with
  | some w => w
  | none => Config.freeWord (s.draws + k)

/-- The bus engine's next choice among the snapshots of a slot: the one State lists, or a free value (93 I15, log 26). -/
def State.nextPick (s : State) : TxPick :=
  match s.picks.coming with
  | c :: _ => c
  | [] => Config.freePick s.picks.taken

/-- `k` of these choices have been taken (log 26). -/
def State.takePicks (k : Nat) (s : State) : State := { s with picks := ⟨s.picks.coming.drop k, s.picks.taken + k⟩ }

/-- A bus-engine step; one whose condition is false cannot be taken and leaves the state as it is (46, log 13). -/
def busStep (s : State) (e : BusEvent) : State :=
  if busEnabled s.dev e then
    ((s.emitAll (busTrace s.nextPick s.dev e)).updDev fun p d => busDevice p s.nextPick d e).takePicks (picksNeeded s.dev e)
  else s

/-- The bus-engine steps the schedule places before the coming core step (20 R80, log 1). -/
def interlude (s : State) : State :=
  match s.schedule with
  | [] => s
  | es :: rest => es.foldl busStep (s.setSchedule rest)

/-- The point of control after one more step has begun (10 R52). -/
def CoreControl.advance : CoreControl → CoreControl
  | .idle => .idle
  | .running op n => .running op (n + 1)

/-- A core step begins: the scheduled bus-engine steps fall, then the point of control advances (20 R80, 10 R52). -/
def coreStep (s : State) : State :=
  let s := interlude s
  s.setCore s.core.advance

/-- MemRead of a register by the device: the value, and the state after its side effect (00 R11, 20 R76). -/
def readReg (r : Reg) (s : State) : Word × State :=
  (regValue r s.params s.dev (s.fresh 0), (s.updDev fun _ d => regAfterRead r d).takeWords 1)

/-- MemWrite of a register by the device (00 R11, 20 R77). -/
def writeReg (r : Reg) (v : Word) (s : State) : State := s.updDev (regWrite r v)

/-- An access with its trace event: the value read and the state after (00 R11, R15). -/
def accessRead (r : Reg) (s : State) : Word × State :=
  ((readReg r s).1, (readReg r s).2.emit (.access .read (s.params.off r) (readReg r s).1))

/-- A write access with its trace event (00 R11, R15). -/
def accessWrite (r : Reg) (v : Word) (s : State) : State :=
  (writeReg r v s).emit (.access .write (s.params.off r) v)

/-- `Rd(NAME)`: a read as one core step (00 R11). -/
def rd (r : Reg) (s : State) : Word × State := accessRead r (coreStep s)

/-- `Wr(NAME, v)`: a write as one core step (00 R11). -/
def wr (r : Reg) (v : Word) (s : State) : State := accessWrite r v (coreStep s)

/-- `setbits(NAME, m)`: a read and a write, two core steps (00 R12). -/
def setbits (r : Reg) (m : Word) (s : State) : State :=
  let x := rd r s
  wr r (x.1 ||| m) x.2

/-- `emit E(args)` as one core step. -/
def emitStep (e : Event) (s : State) : State := (coreStep s).emit e

/-- The reset pulse as one device step: both events, the reset values, the draws (40 R170). -/
def resetPulse (s : State) : State :=
  let s := s.emitAll [.assertReset, .deassertReset]
  (s.updDev fun p _ => pulseDevice p s.fresh).takeWords pulseDraws

/-- The reset pulse inside an operation of the core (42 R190). -/
def pulseStep (s : State) : State := resetPulse (coreStep s)

/-- The host's next answer to `acquire()` (00 R14, log 5). -/
def nextAcquire (s : State) : Bool :=
  match s.answers.acquire with
  | a :: _ => a
  | [] => Config.freeAnswer s.draws

/-- The host's next answer to `alloc()` (00 R14, log 5). -/
def nextAlloc (s : State) : Bool :=
  match s.answers.alloc with
  | a :: _ => a
  | [] => Config.freeAnswer s.draws

/-- The host's next answer to `clock_rate()` (00 R14, log 5). -/
def nextClock (s : State) : Word :=
  match s.answers.clock with
  | c :: _ => c
  | [] => Config.freeClock s.draws

/-- `a <- draw acquire(); emit acquire(a)` as one core step: the answer is `nextAcquire` of the state (42 R194). -/
def acquireStep (s : State) : State :=
  let s := coreStep s
  ((s.emit (.acquire (nextAcquire s))).setAnswers { s.answers with acquire := s.answers.acquire.tail }).addDraws 1

/-- `a <- draw alloc(); emit alloc(a)` as one core step: the answer is `nextAlloc` of the state (44 R224). -/
def allocStep (s : State) : State :=
  let s := coreStep s
  ((s.emit (.alloc (nextAlloc s))).setAnswers { s.answers with alloc := s.answers.alloc.tail }).addDraws 1

/-- The operation returns with a result and the core is idle (10 R52, 60 R300). -/
def finish (r : Result) (s : State) : State := (s.setCore .idle).setResult r

/-- `refuse(reason)`: the marks are set and the operation ends with that result (00 R13, 60 R300, log 8). -/
def refuse (r : RefuseReason) (s : State) : State := finish (.refuse r) s.markRefused

/-- `raise Fault(UnmappedAccess(off))`: the fault marks are set; `step` takes no further step from it (20 R75, 10 R51, log 9). -/
def raiseFault (off : Nat) (s : State) : State := finish (.fault off) (s.markFault off)

/-- An operation that needs a valid handle: refused without one (42 R199, 60 R300 code 21). -/
def withHandle (body : State → State) (s : State) : Host.Outcome State Fault Refusal :=
  if s.attached = .live then .next (body s) else .next (refuse .detached s)

/-- A core operation with steps begins (10 R52). -/
def begin (op : CoreOp) (s : State) : State := s.setCore (.running op 0)

/-- A register read as a one-step operation: its result is the value read (60 R320, 30 R90). The model's choice: it is no
core operation in the sense of 60 R300 and 42 R199, so it needs no handle and is never refused with Detached (log 16). -/
def directRead (r : Reg) (s : State) : Host.Outcome State Fault Refusal :=
  .next ((accessRead r s).2.setResult (.word (accessRead r s).1))

/-- A register write as a one-step operation (60 R320). The model's choice: like a read, it needs no handle and is never
refused with Detached (log 16). -/
def directWrite (r : Reg) (v : Word) (s : State) : Host.Outcome State Fault Refusal :=
  .next ((accessWrite r v s).setResult .written)

end Sys2Proof.Machine
end

