-- ==== Sys2Proof/Machine/BitTiming.lean ====
section
/-! DEFINITION. The bit-timing encoder (spec/41_bit_timing.md R180 to R187): pure functions, and the three core operations that
return their values. -/

namespace Sys2Proof.Machine

/-- prop_seg + phase_seg1 (41 R180). -/
def tseg1 (t : BitTiming) : Nat := t.propSeg + t.phaseSeg1

/-- The checks both phases share, with the phase's bounds on sjw, tseg1 and tseg2 (41 R180, R181). -/
def validTiming (sjwMax tseg1Max tseg2Max : Nat) (t : BitTiming) : Bool :=
  t.prescaler % 2 == 0 && decide (2 ≤ t.prescaler) && decide (t.prescaler ≤ 512)
    && decide (1 ≤ t.syncJumpWidth) && decide (t.syncJumpWidth ≤ sjwMax)
    && decide (1 ≤ tseg1 t) && decide (tseg1 t ≤ tseg1Max)
    && decide (1 ≤ t.phaseSeg2) && decide (t.phaseSeg2 ≤ tseg2Max)

/-- valid_nominal(p) (41 R180). -/
def validNominal (t : BitTiming) : Bool := validTiming 128 128 128 t

/-- valid_data(p) (41 R181). -/
def validData (t : BitTiming) : Bool := validTiming 16 32 16 t

/-- A natural in a 32-bit word at bit `sh` (00 R10). -/
def natAt (n sh : Nat) : Word := BitVec.ofNat 32 n <<< sh

/-- encode_nominal(p), for a valid p (41 R182, 30 R103). -/
def encodeNominal (p : Params) (t : BitTiming) : Word :=
  natAt (t.prescaler / 2 - 1) 16 ||| natAt (t.syncJumpWidth - 1) 24 ||| natAt (tseg1 t - 1) 0
    ||| natAt (t.phaseSeg2 - 1) 8 ||| bitIf t.threeSamples p.nbtpSam

/-- encode_data(p), for a valid p (41 R183, 30 R104). -/
def encodeData (p : Params) (t : BitTiming) : Word :=
  natAt (t.prescaler / 2 - 1) p.dbtpBrpSh ||| natAt (t.syncJumpWidth - 1) p.dbtpSjwSh
    ||| natAt (tseg1 t - 1) p.dbtpTseg1Sh ||| natAt (t.phaseSeg2 - 1) p.dbtpTseg2Sh
    ||| bitIf t.threeSamples p.dbtpSam

/-- compute_tdc(clock_freq, data_bitrate) (41 R184). -/
def computeTdc (clockFreq dataBitrate : Word) : Option (BitVec 8) :=
  if dataBitrate.toNat ≤ 2200000 then none
  else some (BitVec.ofNat 8 (min (max (clockFreq.toNat / dataBitrate.toNat * 2 / 3) 0) 63))

/-- What the fields of a timing register say (41 R186, R187). -/
structure DecodedTiming where
  brp : Nat
  sjw : Nat
  tseg1 : Nat
  tseg2 : Nat
  sam : Bool
  deriving DecidableEq, Repr

/-- decode_nominal(r) (41 R186). -/
def decodeNominal (p : Params) (r : Word) : DecodedTiming where
  brp := 2 * (field r 16 8 + 1)
  sjw := field r 24 7 + 1
  tseg1 := field r 0 8 + 1
  tseg2 := field r 8 8 + 1
  sam := r.getLsbD p.nbtpSam

/-- decode_data(r) (41 R187). -/
def decodeData (p : Params) (r : Word) : DecodedTiming where
  brp := 2 * (field r p.dbtpBrpSh 8 + 1)
  sjw := field r p.dbtpSjwSh 4 + 1
  tseg1 := field r p.dbtpTseg1Sh 5 + 1
  tseg2 := field r p.dbtpTseg2Sh 4 + 1
  sam := r.getLsbD p.dbtpSam

/-- An encoder on a record: its value, or the refusal of an invalid record (41 R182, R183, 60 R300 code 18). -/
def encodeWith (valid : Bool) (v : Word) (s : State) : State :=
  if valid then finish (.encoded v) s else refuse .invalidTiming s

/-- op encode_nominal, refused like every operation without a valid handle (41 R182, 60 R300 code 21, log 11). -/
def execOpEncodeNominal (t : BitTiming) (s : State) : Host.Outcome State Fault Refusal :=
  withHandle (fun s => encodeWith (validNominal t) (encodeNominal s.params t) s) s

/-- op encode_data, refused like every operation without a valid handle (41 R183, 60 R300 code 21, log 11). -/
def execOpEncodeData (t : BitTiming) (s : State) : Host.Outcome State Fault Refusal :=
  withHandle (fun s => encodeWith (validData t) (encodeData s.params t) s) s

/-- op compute_tdc, refused like every operation without a valid handle (41 R184, 60 R300 code 21, log 11). -/
def execOpComputeTdc (clockFreq dataBitrate : Word) (s : State) : Host.Outcome State Fault Refusal :=
  withHandle (fun s => finish (.tdc (computeTdc clockFreq dataBitrate)) s) s

end Sys2Proof.Machine
end

