-- ==== Sys2Proof/Machine/DeviceEvents.lean ====
section
/-! DEFINITION. The device events as instructions (spec/40_register_ops.md R170, spec/46_bus_engine.md R260 to R267): a bus-engine
step whose condition is false is not taken (log 13). -/

namespace Sys2Proof.Machine

/-- ev reset_pulse: the pulse as the core causes it; the handle is not touched (40 R170). -/
def execEvResetPulse (s : State) : Host.Outcome State Fault Refusal := .next (resetPulse s)

/-- ev rx_arrive (46 R260). -/
def execEvRxArrive (w : Vector Word 19) (accept : Bool) (s : State) : Host.Outcome State Fault Refusal :=
  .next (busStep s (.rxArrive w accept))

/-- ev rx_reassert (46 R261). -/
def execEvRxReassert (s : State) : Host.Outcome State Fault Refusal := .next (busStep s .rxReassert)

/-- ev tx_complete (46 R262). -/
def execEvTxComplete (slot : SlotId) (s : State) : Host.Outcome State Fault Refusal :=
  .next (busStep s (.txComplete slot))

/-- ev tx_withdraw (46 R263). -/
def execEvTxWithdraw (slot : SlotId) (s : State) : Host.Outcome State Fault Refusal :=
  .next (busStep s (.txWithdraw slot))

/-- ev bus_error (46 R264). -/
def execEvBusError (v : Word) (s : State) : Host.Outcome State Fault Refusal := .next (busStep s (.busError v))

/-- ev arb_lost (46 R265). -/
def execEvArbLost (c : Word) (s : State) : Host.Outcome State Fault Refusal := .next (busStep s (.arbLost c))

/-- ev err_state (46 R266). -/
def execEvErrState (rxc txc : Word) (warn busoff raiseWarn raisePassive : Bool) (s : State) :
    Host.Outcome State Fault Refusal :=
  .next (busStep s (.errState rxc txc warn busoff raiseWarn raisePassive))

/-- ev other_flag (46 R267). -/
def execEvOtherFlag (n : Fin 8) (s : State) : Host.Outcome State Fault Refusal := .next (busStep s (.otherFlag n))

end Sys2Proof.Machine
end

