-- ==== Sys2Proof/Machine/ModeControl.lean ====
section
/-! DEFINITION. Mode control, start and stop, and the handle's lifecycle (spec/42_mode_control.md R190 to R201). -/

namespace Sys2Proof.Machine

/-- enter_reset(): the pulse, then the write of MODE, two core steps between which bus-engine steps may fall; the WORK bit
the pulse drew enables them (42 R190, 00 R5, 20 R80, 10 R54, log 25). -/
def enterReset (s : State) : State :=
  (wr .mode 0 (pulseStep s)).updHandle fun h => { h with mode := .reset }

/-- enter_normal() (42 R191). -/
def enterNormal (s : State) : State :=
  (setbits .mode (bit s.params.modeWork) s).updHandle fun h => { h with mode := .normal }

/-- One pair of program_filters (42 R192). -/
def programFilter (s : State) (k : Fin 6) : State := wr (.idmask k) 0x1FFFFFFF (wr (.idcode k) s.params.filterCode s)

/-- program_filters(): pairs 0 to 5, code before mask (42 R192). -/
def programFilters (s : State) : State := (List.finRange 6).foldl programFilter s

/-- The FD part of program_features (42 R193). -/
def programFd (fd : Bool) (s : State) : State :=
  if fd then setbits .mode (bit s.params.modeFd) (wr .fdtxCtrl (bit s.params.fdtxEn) s) else s

/-- The loopback part of program_features (42 R193). -/
def programLoopback (loopback : Bool) (s : State) : State :=
  if loopback then setbits .mode (bit s.params.modeLoopback ||| bit s.params.modeSelftest) s else s

/-- program_features(cfg) (42 R193). -/
def programFeatures (cfg : CanConfig) (s : State) : State :=
  setbits .mode (bit s.params.modeAutoretx)
    (programLoopback cfg.loopback (programFd cfg.fd (wr .rxfifoCtrl (bit s.params.rxfifoEn) s)))

/-- TDC programming: TDCR is written only when there is an offset (41 R185). -/
def programTdc (t : Option (BitVec 8)) (s : State) : State :=
  match t with
  | none => s
  | some o => wr .tdcr (tdcrValue s.params o) s

/-- The register sequence of start after a granted acquire, up to and with enter_normal (42 R194). -/
def startSequence (cfg : CanConfig) (s : State) : State :=
  enterNormal
    (programTdc (computeTdc s.handle.clockHz cfg.dataBitrate)
      (wr .dbtp (encodeData s.params cfg.data)
        (wr .nbtp (encodeNominal s.params cfg.nominal)
          (programFeatures cfg
            (programFilters
              (wr .intMask s.params.startIntMask
                (enterReset s)))))))

/-- start() on a valid handle (42 R194). -/
def opStart (s : State) : State :=
  match s.handle.config with
  | none => refuse .notConfigured s
  | some cfg =>
    let s := begin .start s
    if nextAcquire s then
      finish .ok
        (emitStep .release
          ((startSequence cfg (acquireStep s)).updHandle
            fun h => { h with busState := .errorActive, outstanding := [] }))
    else finish .resourceError (acquireStep s)

/-- stop() on a valid handle (42 R195). -/
def opStop (s : State) : State :=
  let s := begin .stop s
  if nextAcquire s then
    finish .ok
      (emitStep .release
        ((wr .intMask 0xFFFFFFFF
          (enterReset
            ((acquireStep s).updHandle fun h => { h with busState := .stopped }))).updHandle
              fun h => { h with outstanding := [] }))
  else finish .resourceError (acquireStep s)

/-- get_berr_counter() on a valid handle: RXERRCNT is read first, the answer is (tx, rx) (42 R198). -/
def opGetBerrCounter (s : State) : State :=
  let s := begin .getBerrCounter s
  if nextAcquire s then
    let x := rd .rxerrcnt (acquireStep s)
    let y := rd .txerrcnt x.2
    finish (.berr y.1 x.1) (emitStep .release y.2)
  else finish .resourceError (acquireStep s)

/-- Is the configuration one that `configure` accepts (42 R196)? -/
def CanConfig.valid (cfg : CanConfig) : Bool := validNominal cfg.nominal && validData cfg.data

/-- configure(cfg) on a valid handle (42 R196). -/
def opConfigure (cfg : CanConfig) (s : State) : State :=
  if CanConfig.valid cfg then finish .ok (s.updHandle fun h => { h with config := some cfg })
  else finish .configError s

/-- Create the handle with the clock rate the host answers (42 R197, 10 R56). The draw emits no event (log 15). The
new handle's marks are clear (10 R56), the whole-state marks stay as they are (10 R51, log 8). -/
def createHandle (s : State) : State :=
  ((((s.updHandle fun _ => Handle.fresh (nextClock s)).setAttached .live).setAnswers
    { s.answers with clock := s.answers.clock.tail })).addDraws 1

/-- op attach (42 R197): refused when a handle exists, and after detach like every later operation (42 R199, log 12). -/
def execOpAttach (s : State) : Host.Outcome State Fault Refusal :=
  match s.attached with
  | .absent => .next (finish .ok (createHandle s))
  | .live => .next (refuse .alreadyAttached s)
  | .invalid => .next (refuse .detached s)

/-- op configure (42 R196). -/
def execOpConfigure (cfg : CanConfig) (s : State) : Host.Outcome State Fault Refusal := withHandle (opConfigure cfg) s

/-- op start (42 R194). -/
def execOpStart (s : State) : Host.Outcome State Fault Refusal := withHandle opStart s

/-- op stop (42 R195). -/
def execOpStop (s : State) : Host.Outcome State Fault Refusal := withHandle opStop s

/-- op get_berr_counter (42 R198). -/
def execOpGetBerrCounter (s : State) : Host.Outcome State Fault Refusal := withHandle opGetBerrCounter s

/-- op enter_reset, a step inside other operations (42 R190, 30 R93). -/
def execOpEnterReset (s : State) : Host.Outcome State Fault Refusal :=
  withHandle (fun s => (enterReset s).setResult .ok) s

/-- op enter_normal, a step inside other operations (42 R191, 30 R93). -/
def execOpEnterNormal (s : State) : Host.Outcome State Fault Refusal :=
  withHandle (fun s => (enterNormal s).setResult .ok) s

/-- op detach: the handle becomes invalid, no access is made (42 R199, log 12). -/
def execOpDetach (s : State) : Host.Outcome State Fault Refusal :=
  withHandle (fun s => finish .ok ((s.updHandle fun _ => Handle.fresh 0).setAttached .invalid)) s

/-- Suspend is exactly stop (42 R200). -/
def execSuspend (s : State) : Host.Outcome State Fault Refusal := execOpStop s

/-- Resume is exactly start (42 R200). -/
def execResume (s : State) : Host.Outcome State Fault Refusal := execOpStart s

/-- The bus state, queryable at any time without a step (60 R313). -/
def queryBusState (s : State) : BusState := s.handle.busState

end Sys2Proof.Machine
end

