-- ==== Sys2Proof/Machine/Receive.lean ====
section
/-! DEFINITION. The receive path (spec/44_receive.md R223 to R225). -/

namespace Sys2Proof.Machine

/-- Read the given read ports in order, one core step each; the words read and the state after (44 R223). -/
def popPorts : List (Fin 19) → State → List Word × State
  | [], s => ([], s)
  | j :: js, s =>
    let x := rd (.rxport j) s
    let y := popPorts js x.2
    (x.1 :: y.1, y.2)

/-- The frame in the 19 words of an entry: DLC/flags, ID, timestamp (discarded), payload (44 R224). -/
def frameOfWords (ws : List Word) : Frame := decodeFrame (ws.getD 0 0) (ws.getD 1 0) (ws.drop 3)

/-- Count a delivered frame (44 R224). -/
def countReceived (f : Frame) (t : Stats) : Stats :=
  { t with rxPackets := t.rxPackets + 1, rxBytes := t.rxBytes + (if f.isRemote then 0 else f.length) }

/-- Deliver a frame upward, or count a drop when the allocation fails (44 R224). -/
def deliver (f : Frame) (s : State) : State :=
  if nextAlloc s then (emitStep (.deliverFrame f) (allocStep s)).updStats (countReceived f)
  else (allocStep s).updStats fun t => { t with rxDropped := t.rxDropped + 1 }

/-- receive() (44 R224). -/
def receive (s : State) : State :=
  let x := popPorts (List.finRange 19) s
  deliver (frameOfWords x.1) x.2

/-- op receive, a step of the handler (44 R224, 30 R93). -/
def execOpReceive (s : State) : Host.Outcome State Fault Refusal :=
  withHandle (fun s => (receive s).setResult .ok) s

end Sys2Proof.Machine
end

