-- ==== Sys2Proof/Machine/Interrupt.lean ====
section
/-! DEFINITION. The error and interrupt state machine (spec/45_interrupt.md R230 to R249). -/

namespace Sys2Proof.Machine

/-- The handler's working variables for one invocation, with the status it read (45 R230, R233). -/
structure IsrVars where
  status : Word
  target : BusState
  ef : Option ErrorFrame
  efFailed : Bool
  deriving DecidableEq, Repr

/-- The handler in progress: its variables and the machine. -/
abbrev IsrState := IsrVars × State

/-- A flag step runs exactly when its bit is 1 in the status (45 R232). -/
def whenFlag (n : Nat) (step : IsrState → IsrState) (x : IsrState) : IsrState :=
  if x.1.status.getLsbD n then step x else x

/-- ensure_ef(): at most one allocation an invocation, a failure counted as a drop (45 R240). -/
def ensureEf (x : IsrState) : IsrState :=
  if x.1.ef.isNone && !x.1.efFailed then
    if nextAlloc x.2 then ({ x.1 with ef := some {} }, allocStep x.2)
    else
      ({ x.1 with efFailed := true },
        (allocStep x.2).updStats fun t => { t with rxDropped := t.rxDropped + 1 })
  else x

/-- Change the diagnostic frame if there is one. -/
def editEf (f : ErrorFrame → ErrorFrame) (x : IsrState) : IsrState := ({ x.1 with ef := x.1.ef.map f }, x.2)

/-- Change the statistics counters. -/
def countIn (f : Stats → Stats) (x : IsrState) : IsrState := (x.1, x.2.updStats f)

/-- Release the oldest echo entry, if there is one (45 R234). -/
def completeEcho (s : State) : State :=
  match s.handle.outstanding with
  | [] => s
  | e :: rest => (emitStep (.echoComplete e) s).updHandle fun h => { h with outstanding := rest }

/-- Step 1, TX_FINISH (45 R234). -/
def stepTxFinish (x : IsrState) : IsrState :=
  let y := rd .txfic x.2
  (x.1,
    emitStep .queueResume
      (completeEcho
        (wr .cmd 0
          (y.2.updStats fun t =>
            { t with txBytes := t.txBytes + countedBytes y.1, txPackets := t.txPackets + 1 }))))

/-- Step 2, RX_FINISH (45 R235). -/
def stepRxFinish (x : IsrState) : IsrState := (x.1, receive x.2)

/-- Step 3, RX_BUF_OV (45 R236). -/
def stepRxOverrun (x : IsrState) : IsrState :=
  let y := countIn (fun t => { t with rxOverErrors := t.rxOverErrors + 1, rxErrors := t.rxErrors + 1 })
    (editEf (fun e => { e with rxOverflow := true }) (ensureEf x))
  (y.1, enterNormal (enterReset y.2))

/-- The target step 4 computes from a STATE value: BUSOFF takes precedence (45 R237). -/
def targetOfState (p : Params) (st : Word) : BusState :=
  if st.getLsbD p.stateBusoff then .busOff
  else if st.getLsbD p.stateErrwarn then .errorWarning
  else .errorActive

/-- Step 4, ERR_WARN (45 R237). -/
def stepErrorWarning (x : IsrState) : IsrState :=
  let y := rd .state x.2
  ({ x.1 with target := targetOfState x.2.params y.1 }, y.2)

/-- Step 5, BUS_ERR (45 R238). -/
def stepBusError (x : IsrState) : IsrState :=
  let y := rd .errcode (x.2.updStats fun t => { t with busError := t.busError + 1 })
  editEf (fun e => { e with busError := some (errInfo x.2.params y.1) }) (ensureEf (x.1, y.2))

/-- The toggle of step 6 (45 R239). -/
def toggle (t : BusState) : BusState := if t = .errorPassive then .errorWarning else .errorPassive

/-- Step 6, PASSIVE_ERR (45 R239). -/
def stepErrorPassive (x : IsrState) : IsrState := ({ x.1 with target := toggle x.1.target }, x.2)

/-- The sides a new state is attributed to: the higher cached counter, both on a tie (45 R243). -/
def attribution (h : Handle) (new : BusState) : StateChange where
  txSide := if h.rxerr.toNat ≤ h.txerr.toNat then some new else none
  rxSide := if h.txerr.toNat ≤ h.rxerr.toNat then some new else none

/-- attribute(new) (45 R243). -/
def attributeState (new : BusState) (x : IsrState) : IsrState :=
  editEf (fun e => { e with stateChange := some (attribution x.2.handle new) }) (ensureEf x)

/-- notify_bus_off() exactly when BusOff is stored (45 R244). -/
def notifyIfBusOff (new : BusState) (x : IsrState) : IsrState :=
  if new = .busOff then (x.1, emitStep .notifyBusOff x.2) else x

/-- Step 7, the state update: nothing happens while the stored state is BusOff or Stopped (45 R242). -/
def stateUpdate (x : IsrState) : IsrState :=
  if x.1.target ≠ x.2.handle.busState ∧ x.2.handle.busState ≠ .busOff ∧ x.2.handle.busState ≠ .stopped then
    notifyIfBusOff x.1.target
      (attributeState x.1.target (x.1, x.2.updHandle fun h => { h with busState := x.1.target }))
  else x

/-- Step 8, TX_LOSTARB (45 R241). -/
def stepArbitrationLost (x : IsrState) : IsrState :=
  let y := rd .lostarb
    (x.2.updStats fun t => { t with arbitrationLost := t.arbitrationLost + 1, txErrors := t.txErrors + 1 })
  editEf (fun e => { e with arbLost := some y.1 }) (ensureEf (x.1, y.2))

/-- Deliver the diagnostic frame if there is one (45 R245). -/
def deliverEf (x : IsrState) : IsrState :=
  match x.1.ef with
  | none => x
  | some e => (x.1, emitStep (.deliverErrorFrame e) x.2)

/-- Entry: the status read, the two counter reads into the cache, the working variables (45 R230, R231, R233). -/
def isrEntry (s : State) : IsrState :=
  let x := rd .int s
  let r := rd .rxerrcnt x.2
  let t := rd .txerrcnt (r.2.updHandle fun h => { h with rxerr := r.1 })
  (⟨x.1, s.handle.busState, none, false⟩, t.2.updHandle fun h => { h with txerr := t.1 })

/-- The flag steps and the state update in their fixed order (45 R232, R247). -/
def isrSteps (p : Params) (x : IsrState) : IsrState :=
  whenFlag p.intTxLostarb stepArbitrationLost
    (stateUpdate
      (whenFlag p.intPassiveErr stepErrorPassive
        (whenFlag p.intBusErr stepBusError
          (whenFlag p.intErrWarn stepErrorWarning
            (whenFlag p.intRxBufOv stepRxOverrun
              (whenFlag p.intRxFinish stepRxFinish
                (whenFlag p.intTxFinish stepTxFinish x)))))))

/-- The acknowledge: the last access writes back the status read at entry (45 R246). -/
def acknowledge (x : IsrState) : State := wr .int x.1.status x.2

/-- isr() on a valid handle (45 R247). -/
def opIsr (s : State) : State :=
  finish .ok (acknowledge (deliverEf (isrSteps s.params (isrEntry (begin .isr s)))))

/-- op isr (45 R247). -/
def execOpIsr (s : State) : Host.Outcome State Fault Refusal := withHandle opIsr s

end Sys2Proof.Machine
end

