-- ==== Sys2Proof/Machine/RegisterReads.lean ====
section
/-! DEFINITION. The register reads of spec/40_register_ops.md as instructions: one-step operations over the shared access, whose
per-register behaviour stands in Registers.lean. -/

namespace Sys2Proof.Machine

/-- Read MODE (40 R130). -/
def execRdMode (s : State) : Host.Outcome State Fault Refusal :=
  directRead .mode s

/-- Read CMD (40 R132). -/
def execRdCmd (s : State) : Host.Outcome State Fault Refusal :=
  directRead .cmd s

/-- Read STATE (40 R134). -/
def execRdState (s : State) : Host.Outcome State Fault Refusal :=
  directRead .state s

/-- Read INT (40 R136). -/
def execRdInt (s : State) : Host.Outcome State Fault Refusal :=
  directRead .int s

/-- Read INT_MASK (40 R138). -/
def execRdIntMask (s : State) : Host.Outcome State Fault Refusal :=
  directRead .intMask s

/-- Read LOSTARB (40 R140). -/
def execRdLostarb (s : State) : Host.Outcome State Fault Refusal :=
  directRead .lostarb s

/-- Read ERRCODE (40 R142). -/
def execRdErrcode (s : State) : Host.Outcome State Fault Refusal :=
  directRead .errcode s

/-- Read RXERRCNT (40 R144). -/
def execRdRxerrcnt (s : State) : Host.Outcome State Fault Refusal :=
  directRead .rxerrcnt s

/-- Read TXERRCNT (40 R145). -/
def execRdTxerrcnt (s : State) : Host.Outcome State Fault Refusal :=
  directRead .txerrcnt s

/-- Read NBTP (40 R152). -/
def execRdNbtp (s : State) : Host.Outcome State Fault Refusal :=
  directRead .nbtp s

/-- Read DBTP (40 R154). -/
def execRdDbtp (s : State) : Host.Outcome State Fault Refusal :=
  directRead .dbtp s

/-- Read TDCR (40 R156). -/
def execRdTdcr (s : State) : Host.Outcome State Fault Refusal :=
  directRead .tdcr s

/-- Read FDTX_CTRL (40 R160). -/
def execRdFdtxCtrl (s : State) : Host.Outcome State Fault Refusal :=
  directRead .fdtxCtrl s

/-- Read RXFIFO_CTRL (40 R158). -/
def execRdRxfifoCtrl (s : State) : Host.Outcome State Fault Refusal :=
  directRead .rxfifoCtrl s

/-- Read IDCODE(0) (40 R148). -/
def execRdIdcode0 (s : State) : Host.Outcome State Fault Refusal :=
  directRead (.idcode 0) s

/-- Read IDMASK(0) (40 R150). -/
def execRdIdmask0 (s : State) : Host.Outcome State Fault Refusal :=
  directRead (.idmask 0) s

/-- Read IDCODE(1) (40 R148). -/
def execRdIdcode1 (s : State) : Host.Outcome State Fault Refusal :=
  directRead (.idcode 1) s

/-- Read IDMASK(1) (40 R150). -/
def execRdIdmask1 (s : State) : Host.Outcome State Fault Refusal :=
  directRead (.idmask 1) s

/-- Read IDCODE(2) (40 R148). -/
def execRdIdcode2 (s : State) : Host.Outcome State Fault Refusal :=
  directRead (.idcode 2) s

/-- Read IDMASK(2) (40 R150). -/
def execRdIdmask2 (s : State) : Host.Outcome State Fault Refusal :=
  directRead (.idmask 2) s

/-- Read IDCODE(3) (40 R148). -/
def execRdIdcode3 (s : State) : Host.Outcome State Fault Refusal :=
  directRead (.idcode 3) s

/-- Read IDMASK(3) (40 R150). -/
def execRdIdmask3 (s : State) : Host.Outcome State Fault Refusal :=
  directRead (.idmask 3) s

/-- Read IDCODE(4) (40 R148). -/
def execRdIdcode4 (s : State) : Host.Outcome State Fault Refusal :=
  directRead (.idcode 4) s

/-- Read IDMASK(4) (40 R150). -/
def execRdIdmask4 (s : State) : Host.Outcome State Fault Refusal :=
  directRead (.idmask 4) s

/-- Read IDCODE(5) (40 R148). -/
def execRdIdcode5 (s : State) : Host.Outcome State Fault Refusal :=
  directRead (.idcode 5) s

/-- Read IDMASK(5) (40 R150). -/
def execRdIdmask5 (s : State) : Host.Outcome State Fault Refusal :=
  directRead (.idmask 5) s

/-- Read TXFIC (40 R162). -/
def execRdTxfic (s : State) : Host.Outcome State Fault Refusal :=
  directRead .txfic s

/-- Read TXID (40 R164). -/
def execRdTxid (s : State) : Host.Outcome State Fault Refusal :=
  directRead .txid s

/-- Read TXDAT(0) (40 R166). -/
def execRdTxdat0 (s : State) : Host.Outcome State Fault Refusal :=
  directRead (.txdat 0) s

/-- Read TXDAT(1) (40 R166). -/
def execRdTxdat1 (s : State) : Host.Outcome State Fault Refusal :=
  directRead (.txdat 1) s

/-- Read TXDAT(2) (40 R166). -/
def execRdTxdat2 (s : State) : Host.Outcome State Fault Refusal :=
  directRead (.txdat 2) s

/-- Read TXDAT(3) (40 R166). -/
def execRdTxdat3 (s : State) : Host.Outcome State Fault Refusal :=
  directRead (.txdat 3) s

/-- Read TXDAT(4) (40 R166). -/
def execRdTxdat4 (s : State) : Host.Outcome State Fault Refusal :=
  directRead (.txdat 4) s

/-- Read TXDAT(5) (40 R166). -/
def execRdTxdat5 (s : State) : Host.Outcome State Fault Refusal :=
  directRead (.txdat 5) s

/-- Read TXDAT(6) (40 R166). -/
def execRdTxdat6 (s : State) : Host.Outcome State Fault Refusal :=
  directRead (.txdat 6) s

/-- Read TXDAT(7) (40 R166). -/
def execRdTxdat7 (s : State) : Host.Outcome State Fault Refusal :=
  directRead (.txdat 7) s

/-- Read TXDAT(8) (40 R166). -/
def execRdTxdat8 (s : State) : Host.Outcome State Fault Refusal :=
  directRead (.txdat 8) s

/-- Read TXDAT(9) (40 R166). -/
def execRdTxdat9 (s : State) : Host.Outcome State Fault Refusal :=
  directRead (.txdat 9) s

/-- Read TXDAT(10) (40 R166). -/
def execRdTxdat10 (s : State) : Host.Outcome State Fault Refusal :=
  directRead (.txdat 10) s

/-- Read TXDAT(11) (40 R166). -/
def execRdTxdat11 (s : State) : Host.Outcome State Fault Refusal :=
  directRead (.txdat 11) s

/-- Read TXDAT(12) (40 R166). -/
def execRdTxdat12 (s : State) : Host.Outcome State Fault Refusal :=
  directRead (.txdat 12) s

/-- Read TXDAT(13) (40 R166). -/
def execRdTxdat13 (s : State) : Host.Outcome State Fault Refusal :=
  directRead (.txdat 13) s

/-- Read TXDAT(14) (40 R166). -/
def execRdTxdat14 (s : State) : Host.Outcome State Fault Refusal :=
  directRead (.txdat 14) s

/-- Read TXDAT(15) (40 R166). -/
def execRdTxdat15 (s : State) : Host.Outcome State Fault Refusal :=
  directRead (.txdat 15) s

/-- Read RXPORT(j), j=0..18 (40 R168). -/
def execRdRxport (j : Fin 19) (s : State) : Host.Outcome State Fault Refusal :=
  directRead (.rxport j) s

end Sys2Proof.Machine
end

