-- ==== Sys2Proof/Machine/RegisterWrites.lean ====
section
/-! DEFINITION. The register writes of spec/40_register_ops.md as instructions: one-step operations over the shared access, whose
per-register behaviour stands in Registers.lean. -/

namespace Sys2Proof.Machine

/-- Write MODE (40 R131). -/
def execWrMode (v : Word) (s : State) : Host.Outcome State Fault Refusal :=
  directWrite .mode v s

/-- Write CMD (40 R133). -/
def execWrCmd (v : Word) (s : State) : Host.Outcome State Fault Refusal :=
  directWrite .cmd v s

/-- Write STATE (40 R135). -/
def execWrState (v : Word) (s : State) : Host.Outcome State Fault Refusal :=
  directWrite .state v s

/-- Write INT (40 R137). -/
def execWrInt (v : Word) (s : State) : Host.Outcome State Fault Refusal :=
  directWrite .int v s

/-- Write INT_MASK (40 R139). -/
def execWrIntMask (v : Word) (s : State) : Host.Outcome State Fault Refusal :=
  directWrite .intMask v s

/-- Write LOSTARB (40 R141). -/
def execWrLostarb (v : Word) (s : State) : Host.Outcome State Fault Refusal :=
  directWrite .lostarb v s

/-- Write ERRCODE (40 R143). -/
def execWrErrcode (v : Word) (s : State) : Host.Outcome State Fault Refusal :=
  directWrite .errcode v s

/-- Write RXERRCNT (40 R146). -/
def execWrRxerrcnt (v : Word) (s : State) : Host.Outcome State Fault Refusal :=
  directWrite .rxerrcnt v s

/-- Write TXERRCNT (40 R147). -/
def execWrTxerrcnt (v : Word) (s : State) : Host.Outcome State Fault Refusal :=
  directWrite .txerrcnt v s

/-- Write NBTP (40 R153). -/
def execWrNbtp (v : Word) (s : State) : Host.Outcome State Fault Refusal :=
  directWrite .nbtp v s

/-- Write DBTP (40 R155). -/
def execWrDbtp (v : Word) (s : State) : Host.Outcome State Fault Refusal :=
  directWrite .dbtp v s

/-- Write TDCR (40 R157). -/
def execWrTdcr (v : Word) (s : State) : Host.Outcome State Fault Refusal :=
  directWrite .tdcr v s

/-- Write FDTX_CTRL (40 R161). -/
def execWrFdtxCtrl (v : Word) (s : State) : Host.Outcome State Fault Refusal :=
  directWrite .fdtxCtrl v s

/-- Write RXFIFO_CTRL (40 R159). -/
def execWrRxfifoCtrl (v : Word) (s : State) : Host.Outcome State Fault Refusal :=
  directWrite .rxfifoCtrl v s

/-- Write IDCODE(0) (40 R149). -/
def execWrIdcode0 (v : Word) (s : State) : Host.Outcome State Fault Refusal :=
  directWrite (.idcode 0) v s

/-- Write IDMASK(0) (40 R151). -/
def execWrIdmask0 (v : Word) (s : State) : Host.Outcome State Fault Refusal :=
  directWrite (.idmask 0) v s

/-- Write IDCODE(1) (40 R149). -/
def execWrIdcode1 (v : Word) (s : State) : Host.Outcome State Fault Refusal :=
  directWrite (.idcode 1) v s

/-- Write IDMASK(1) (40 R151). -/
def execWrIdmask1 (v : Word) (s : State) : Host.Outcome State Fault Refusal :=
  directWrite (.idmask 1) v s

/-- Write IDCODE(2) (40 R149). -/
def execWrIdcode2 (v : Word) (s : State) : Host.Outcome State Fault Refusal :=
  directWrite (.idcode 2) v s

/-- Write IDMASK(2) (40 R151). -/
def execWrIdmask2 (v : Word) (s : State) : Host.Outcome State Fault Refusal :=
  directWrite (.idmask 2) v s

/-- Write IDCODE(3) (40 R149). -/
def execWrIdcode3 (v : Word) (s : State) : Host.Outcome State Fault Refusal :=
  directWrite (.idcode 3) v s

/-- Write IDMASK(3) (40 R151). -/
def execWrIdmask3 (v : Word) (s : State) : Host.Outcome State Fault Refusal :=
  directWrite (.idmask 3) v s

/-- Write IDCODE(4) (40 R149). -/
def execWrIdcode4 (v : Word) (s : State) : Host.Outcome State Fault Refusal :=
  directWrite (.idcode 4) v s

/-- Write IDMASK(4) (40 R151). -/
def execWrIdmask4 (v : Word) (s : State) : Host.Outcome State Fault Refusal :=
  directWrite (.idmask 4) v s

/-- Write IDCODE(5) (40 R149). -/
def execWrIdcode5 (v : Word) (s : State) : Host.Outcome State Fault Refusal :=
  directWrite (.idcode 5) v s

/-- Write IDMASK(5) (40 R151). -/
def execWrIdmask5 (v : Word) (s : State) : Host.Outcome State Fault Refusal :=
  directWrite (.idmask 5) v s

/-- Write TXFIC (40 R163). -/
def execWrTxfic (v : Word) (s : State) : Host.Outcome State Fault Refusal :=
  directWrite .txfic v s

/-- Write TXID (40 R165). -/
def execWrTxid (v : Word) (s : State) : Host.Outcome State Fault Refusal :=
  directWrite .txid v s

/-- Write TXDAT(0) (40 R167). -/
def execWrTxdat0 (v : Word) (s : State) : Host.Outcome State Fault Refusal :=
  directWrite (.txdat 0) v s

/-- Write TXDAT(1) (40 R167). -/
def execWrTxdat1 (v : Word) (s : State) : Host.Outcome State Fault Refusal :=
  directWrite (.txdat 1) v s

/-- Write TXDAT(2) (40 R167). -/
def execWrTxdat2 (v : Word) (s : State) : Host.Outcome State Fault Refusal :=
  directWrite (.txdat 2) v s

/-- Write TXDAT(3) (40 R167). -/
def execWrTxdat3 (v : Word) (s : State) : Host.Outcome State Fault Refusal :=
  directWrite (.txdat 3) v s

/-- Write TXDAT(4) (40 R167). -/
def execWrTxdat4 (v : Word) (s : State) : Host.Outcome State Fault Refusal :=
  directWrite (.txdat 4) v s

/-- Write TXDAT(5) (40 R167). -/
def execWrTxdat5 (v : Word) (s : State) : Host.Outcome State Fault Refusal :=
  directWrite (.txdat 5) v s

/-- Write TXDAT(6) (40 R167). -/
def execWrTxdat6 (v : Word) (s : State) : Host.Outcome State Fault Refusal :=
  directWrite (.txdat 6) v s

/-- Write TXDAT(7) (40 R167). -/
def execWrTxdat7 (v : Word) (s : State) : Host.Outcome State Fault Refusal :=
  directWrite (.txdat 7) v s

/-- Write TXDAT(8) (40 R167). -/
def execWrTxdat8 (v : Word) (s : State) : Host.Outcome State Fault Refusal :=
  directWrite (.txdat 8) v s

/-- Write TXDAT(9) (40 R167). -/
def execWrTxdat9 (v : Word) (s : State) : Host.Outcome State Fault Refusal :=
  directWrite (.txdat 9) v s

/-- Write TXDAT(10) (40 R167). -/
def execWrTxdat10 (v : Word) (s : State) : Host.Outcome State Fault Refusal :=
  directWrite (.txdat 10) v s

/-- Write TXDAT(11) (40 R167). -/
def execWrTxdat11 (v : Word) (s : State) : Host.Outcome State Fault Refusal :=
  directWrite (.txdat 11) v s

/-- Write TXDAT(12) (40 R167). -/
def execWrTxdat12 (v : Word) (s : State) : Host.Outcome State Fault Refusal :=
  directWrite (.txdat 12) v s

/-- Write TXDAT(13) (40 R167). -/
def execWrTxdat13 (v : Word) (s : State) : Host.Outcome State Fault Refusal :=
  directWrite (.txdat 13) v s

/-- Write TXDAT(14) (40 R167). -/
def execWrTxdat14 (v : Word) (s : State) : Host.Outcome State Fault Refusal :=
  directWrite (.txdat 14) v s

/-- Write TXDAT(15) (40 R167). -/
def execWrTxdat15 (v : Word) (s : State) : Host.Outcome State Fault Refusal :=
  directWrite (.txdat 15) v s

/-- Write RXPORT(j), j=0..18 (40 R169). -/
def execWrRxport (j : Fin 19) (v : Word) (s : State) : Host.Outcome State Fault Refusal :=
  directWrite (.rxport j) v s

end Sys2Proof.Machine
end

