-- ==== Sys2Proof/Machine/Transmit.lean ====
section
/-! DEFINITION. The transmit path (spec/43_transmit.md R214 to R216). -/

namespace Sys2Proof.Machine

/-- Both request bits of a CMD value read 1 (43 R214). -/
def bothPending (p : Params) (c : Word) : Bool := c.getLsbD p.cmdTxreq0 && c.getLsbD p.cmdTxreq1

/-- The slot chosen for a CMD value: slot 1 if slot 0's request bit reads 1, else slot 0 (43 R215). -/
def chooseSlot (p : Params) (c : Word) : SlotId := if c.getLsbD p.cmdTxreq0 then .slot1 else .slot0

/-- Write one payload word (43 R214). -/
def stagePayload (s : State) (x : Fin 16 × Word) : State := wr (.txdat x.1) x.2 s

/-- Stage a frame: ID, DLC/flags, then the payload words in order (43 R214). -/
def stageFrame (f : Frame) (s : State) : State :=
  (payloadWords f).foldl stagePayload (wr .txfic (dlcWord f) (wr .txid (idWord f) s))

/-- The rest of transmit once a slot is chosen: stage, record the echo, request (43 R214). -/
def submit (f : Frame) (slot : SlotId) (s : State) : State :=
  finish (.slot slot)
    (wr .cmd (bit (s.params.cmdTxreq slot))
      ((emitStep (.echoSubmitted slot f) (stageFrame f s)).updHandle
        fun h => { h with outstanding := h.outstanding ++ [slot] }))

/-- transmit(f) on a valid handle (43 R214). -/
def opTransmit (f : Frame) (s : State) : State :=
  if wellFormedFrame f then
    let x := rd .cmd (emitStep .queueStop (begin .transmit s))
    if bothPending s.params x.1 then finish .busy x.2 else submit f (chooseSlot s.params x.1) x.2
  else refuse .malformedFrame s

/-- op transmit (43 R214). -/
def execOpTransmit (f : Frame) (s : State) : Host.Outcome State Fault Refusal := withHandle (opTransmit f) s

end Sys2Proof.Machine
end

