-- ==== Sys2Proof/Machine/Dispatch.lean ====
section
/-! DEFINITION. The dispatcher: one arm for each constructor of Instr. -/

namespace Sys2Proof.Machine

def exec (i : Instr) (s : State) : Host.Outcome State Fault Refusal :=
  match i with
  | .rdMode => Sys2Proof.Machine.execRdMode s
  | .wrMode v => Sys2Proof.Machine.execWrMode v s
  | .rdCmd => Sys2Proof.Machine.execRdCmd s
  | .wrCmd v => Sys2Proof.Machine.execWrCmd v s
  | .rdState => Sys2Proof.Machine.execRdState s
  | .wrState v => Sys2Proof.Machine.execWrState v s
  | .rdInt => Sys2Proof.Machine.execRdInt s
  | .wrInt v => Sys2Proof.Machine.execWrInt v s
  | .rdIntMask => Sys2Proof.Machine.execRdIntMask s
  | .wrIntMask v => Sys2Proof.Machine.execWrIntMask v s
  | .rdLostarb => Sys2Proof.Machine.execRdLostarb s
  | .wrLostarb v => Sys2Proof.Machine.execWrLostarb v s
  | .rdErrcode => Sys2Proof.Machine.execRdErrcode s
  | .wrErrcode v => Sys2Proof.Machine.execWrErrcode v s
  | .rdRxerrcnt => Sys2Proof.Machine.execRdRxerrcnt s
  | .wrRxerrcnt v => Sys2Proof.Machine.execWrRxerrcnt v s
  | .rdTxerrcnt => Sys2Proof.Machine.execRdTxerrcnt s
  | .wrTxerrcnt v => Sys2Proof.Machine.execWrTxerrcnt v s
  | .rdNbtp => Sys2Proof.Machine.execRdNbtp s
  | .wrNbtp v => Sys2Proof.Machine.execWrNbtp v s
  | .rdDbtp => Sys2Proof.Machine.execRdDbtp s
  | .wrDbtp v => Sys2Proof.Machine.execWrDbtp v s
  | .rdTdcr => Sys2Proof.Machine.execRdTdcr s
  | .wrTdcr v => Sys2Proof.Machine.execWrTdcr v s
  | .rdFdtxCtrl => Sys2Proof.Machine.execRdFdtxCtrl s
  | .wrFdtxCtrl v => Sys2Proof.Machine.execWrFdtxCtrl v s
  | .rdRxfifoCtrl => Sys2Proof.Machine.execRdRxfifoCtrl s
  | .wrRxfifoCtrl v => Sys2Proof.Machine.execWrRxfifoCtrl v s
  | .rdIdcode0 => Sys2Proof.Machine.execRdIdcode0 s
  | .wrIdcode0 v => Sys2Proof.Machine.execWrIdcode0 v s
  | .rdIdmask0 => Sys2Proof.Machine.execRdIdmask0 s
  | .wrIdmask0 v => Sys2Proof.Machine.execWrIdmask0 v s
  | .rdIdcode1 => Sys2Proof.Machine.execRdIdcode1 s
  | .wrIdcode1 v => Sys2Proof.Machine.execWrIdcode1 v s
  | .rdIdmask1 => Sys2Proof.Machine.execRdIdmask1 s
  | .wrIdmask1 v => Sys2Proof.Machine.execWrIdmask1 v s
  | .rdIdcode2 => Sys2Proof.Machine.execRdIdcode2 s
  | .wrIdcode2 v => Sys2Proof.Machine.execWrIdcode2 v s
  | .rdIdmask2 => Sys2Proof.Machine.execRdIdmask2 s
  | .wrIdmask2 v => Sys2Proof.Machine.execWrIdmask2 v s
  | .rdIdcode3 => Sys2Proof.Machine.execRdIdcode3 s
  | .wrIdcode3 v => Sys2Proof.Machine.execWrIdcode3 v s
  | .rdIdmask3 => Sys2Proof.Machine.execRdIdmask3 s
  | .wrIdmask3 v => Sys2Proof.Machine.execWrIdmask3 v s
  | .rdIdcode4 => Sys2Proof.Machine.execRdIdcode4 s
  | .wrIdcode4 v => Sys2Proof.Machine.execWrIdcode4 v s
  | .rdIdmask4 => Sys2Proof.Machine.execRdIdmask4 s
  | .wrIdmask4 v => Sys2Proof.Machine.execWrIdmask4 v s
  | .rdIdcode5 => Sys2Proof.Machine.execRdIdcode5 s
  | .wrIdcode5 v => Sys2Proof.Machine.execWrIdcode5 v s
  | .rdIdmask5 => Sys2Proof.Machine.execRdIdmask5 s
  | .wrIdmask5 v => Sys2Proof.Machine.execWrIdmask5 v s
  | .rdTxfic => Sys2Proof.Machine.execRdTxfic s
  | .wrTxfic v => Sys2Proof.Machine.execWrTxfic v s
  | .rdTxid => Sys2Proof.Machine.execRdTxid s
  | .wrTxid v => Sys2Proof.Machine.execWrTxid v s
  | .rdTxdat0 => Sys2Proof.Machine.execRdTxdat0 s
  | .wrTxdat0 v => Sys2Proof.Machine.execWrTxdat0 v s
  | .rdTxdat1 => Sys2Proof.Machine.execRdTxdat1 s
  | .wrTxdat1 v => Sys2Proof.Machine.execWrTxdat1 v s
  | .rdTxdat2 => Sys2Proof.Machine.execRdTxdat2 s
  | .wrTxdat2 v => Sys2Proof.Machine.execWrTxdat2 v s
  | .rdTxdat3 => Sys2Proof.Machine.execRdTxdat3 s
  | .wrTxdat3 v => Sys2Proof.Machine.execWrTxdat3 v s
  | .rdTxdat4 => Sys2Proof.Machine.execRdTxdat4 s
  | .wrTxdat4 v => Sys2Proof.Machine.execWrTxdat4 v s
  | .rdTxdat5 => Sys2Proof.Machine.execRdTxdat5 s
  | .wrTxdat5 v => Sys2Proof.Machine.execWrTxdat5 v s
  | .rdTxdat6 => Sys2Proof.Machine.execRdTxdat6 s
  | .wrTxdat6 v => Sys2Proof.Machine.execWrTxdat6 v s
  | .rdTxdat7 => Sys2Proof.Machine.execRdTxdat7 s
  | .wrTxdat7 v => Sys2Proof.Machine.execWrTxdat7 v s
  | .rdTxdat8 => Sys2Proof.Machine.execRdTxdat8 s
  | .wrTxdat8 v => Sys2Proof.Machine.execWrTxdat8 v s
  | .rdTxdat9 => Sys2Proof.Machine.execRdTxdat9 s
  | .wrTxdat9 v => Sys2Proof.Machine.execWrTxdat9 v s
  | .rdTxdat10 => Sys2Proof.Machine.execRdTxdat10 s
  | .wrTxdat10 v => Sys2Proof.Machine.execWrTxdat10 v s
  | .rdTxdat11 => Sys2Proof.Machine.execRdTxdat11 s
  | .wrTxdat11 v => Sys2Proof.Machine.execWrTxdat11 v s
  | .rdTxdat12 => Sys2Proof.Machine.execRdTxdat12 s
  | .wrTxdat12 v => Sys2Proof.Machine.execWrTxdat12 v s
  | .rdTxdat13 => Sys2Proof.Machine.execRdTxdat13 s
  | .wrTxdat13 v => Sys2Proof.Machine.execWrTxdat13 v s
  | .rdTxdat14 => Sys2Proof.Machine.execRdTxdat14 s
  | .wrTxdat14 v => Sys2Proof.Machine.execWrTxdat14 v s
  | .rdTxdat15 => Sys2Proof.Machine.execRdTxdat15 s
  | .wrTxdat15 v => Sys2Proof.Machine.execWrTxdat15 v s
  | .rdRxport j => Sys2Proof.Machine.execRdRxport j s
  | .wrRxport j v => Sys2Proof.Machine.execWrRxport j v s
  | .opAttach => Sys2Proof.Machine.execOpAttach s
  | .opConfigure cfg => Sys2Proof.Machine.execOpConfigure cfg s
  | .opStart => Sys2Proof.Machine.execOpStart s
  | .opStop => Sys2Proof.Machine.execOpStop s
  | .opTransmit f => Sys2Proof.Machine.execOpTransmit f s
  | .opIsr => Sys2Proof.Machine.execOpIsr s
  | .opGetBerrCounter => Sys2Proof.Machine.execOpGetBerrCounter s
  | .opEncodeNominal t => Sys2Proof.Machine.execOpEncodeNominal t s
  | .opEncodeData t => Sys2Proof.Machine.execOpEncodeData t s
  | .opComputeTdc clockFreq dataBitrate => Sys2Proof.Machine.execOpComputeTdc clockFreq dataBitrate s
  | .opEnterReset => Sys2Proof.Machine.execOpEnterReset s
  | .opEnterNormal => Sys2Proof.Machine.execOpEnterNormal s
  | .opReceive => Sys2Proof.Machine.execOpReceive s
  | .opDetach => Sys2Proof.Machine.execOpDetach s
  | .evResetPulse => Sys2Proof.Machine.execEvResetPulse s
  | .evRxArrive w accept => Sys2Proof.Machine.execEvRxArrive w accept s
  | .evRxReassert => Sys2Proof.Machine.execEvRxReassert s
  | .evTxComplete slot => Sys2Proof.Machine.execEvTxComplete slot s
  | .evTxWithdraw slot => Sys2Proof.Machine.execEvTxWithdraw slot s
  | .evBusError v => Sys2Proof.Machine.execEvBusError v s
  | .evArbLost c => Sys2Proof.Machine.execEvArbLost c s
  | .evErrState rxc txc warn busoff raiseWarn raisePassive => Sys2Proof.Machine.execEvErrState rxc txc warn busoff raiseWarn raisePassive s
  | .evOtherFlag n => Sys2Proof.Machine.execEvOtherFlag n s

end Sys2Proof.Machine
end

