-- ==== Sys2Proof/Machine/Fetch.lean ====
section
/-! DEFINITION. Taking a request: who may make it, what a rejected one does, and how a word of the opcode table becomes a request
(spec/30_encoding.md R93, R94, R111, spec/60_exceptions.md R320 to R323, log 7, log 10). -/

namespace Sys2Proof.Machine

/-- What becomes of a request of an issuer, as far as its descriptor tells. -/
inductive Permission where
  /-- The issuer may make it. -/
  | granted
  /-- The host names a core-only operation or the reset pulse: refuse(UnassignedDescriptor) (30 R111). -/
  | unassigned
  /-- The request is not the issuer's to make: no move (60 R323, log 10). -/
  | noMove
  deriving DecidableEq, Repr

/-- The kinds of instruction by who invokes them (30 R93, R94, 60 R320). -/
inductive InvokedBy where
  /-- A register access: the host directly, or the core. -/
  | access
  /-- A host operation. -/
  | hostOp
  /-- A pure function: any. -/
  | anyAgent
  /-- A core-only operation, or the reset pulse the core causes. -/
  | coreOnly
  /-- A spontaneous device step. -/
  | busEngine
  deriving DecidableEq, Repr

/-- The column "invoked by" of 30 R93, read off the descriptor of a decoded request, and R94 for the events. -/
def invokedBy (d : BitVec 16) : InvokedBy :=
  if descClass d = 0#2 ∨ descClass d = 1#2 then .access
  else if descClass d = 2#2 then
    if descOpn d = 0x08#8 ∨ descOpn d = 0x09#8 ∨ descOpn d = 0x0A#8 then .anyAgent
    else if descOpn d = 0x0B#8 ∨ descOpn d = 0x0C#8 ∨ descOpn d = 0x0D#8 then .coreOnly
    else .hostOp
  else if descOpn d = 0x00#8 then .coreOnly
  else .busEngine

/-- May the issuer make the request (30 R111, 60 R320, R323)? -/
def permission (who : Issuer) (d : BitVec 16) : Permission :=
  match who, invokedBy d with
  | .host, .access => .granted
  | .host, .hostOp => .granted
  | .host, .anyAgent => .granted
  | .host, .coreOnly => .unassigned
  | .host, .busEngine => .noMove
  | .core, .access => .granted
  | .core, .hostOp => .noMove
  | .core, .anyAgent => .granted
  | .core, .coreOnly => .granted
  | .core, .busEngine => .noMove
  | .device, .access => .noMove
  | .device, .hostOp => .noMove
  | .device, .anyAgent => .granted
  | .device, .coreOnly => .noMove
  | .device, .busEngine => .granted

/-- A request that does not decode. An access the core itself issues at an offset that names no register faults
(20 R75, log 9); any other bad descriptor is refuse(UnassignedDescriptor) (30 R111); words that are no operand record have
no meaning (log 6). -/
def rejectRequest (who : Issuer) (e : DecodeError) (s : State) : Host.Outcome State Fault Refusal :=
  match e with
  | .misaligned off => .next (if who = .core then raiseFault off s else refuse .unassignedDescriptor s)
  | .noRegister off => .next (if who = .core then raiseFault off s else refuse .unassignedDescriptor s)
  | .zNonzero => .next (refuse .unassignedDescriptor s)
  | .z2Nonzero => .next (refuse .unassignedDescriptor s)
  | .unassignedOp _ => .next (refuse .unassignedDescriptor s)
  | .unassignedEvent _ => .next (refuse .unassignedDescriptor s)
  | .shortOperands => .refused .malformedOperands
  | .trailingOperands => .refused .malformedOperands
  | .badOperand => .refused .malformedOperands

/-- Take one request: a host request needs an idle core (60 R321); a core-only one by the host is refused whatever operand
words stand after its descriptor (30 R111, log 10); any other is decoded, and run if its issuer may make it. -/
def runRequest (q : Request) (s : State) : Host.Outcome State Fault Refusal :=
  if q.issuer = .host ∧ s.core ≠ .idle then .refused .coreBusy
  else if permission q.issuer q.desc = .unassigned then .next (refuse .unassignedDescriptor s)
  else
    match decodeRequest s.params q.desc q.operands with
    | .error e => rejectRequest q.issuer e s
    | .ok i => if permission q.issuer q.desc = .granted then exec i s else .refused .noMove

/-- Take the next request of the inbox; with none the machine waits, its state unchanged (70 R330, log 7). -/
def takeRequest (s : State) : Host.Outcome State Fault Refusal :=
  match s.inbox with
  | [] => .next s
  | q :: rest => runRequest q (s.setInbox rest)

/-- The issuer that may make the request a descriptor names; the host where several may (30 R93, R94). -/
def usualIssuer (d : BitVec 16) : Issuer :=
  match invokedBy d with
  | .access => .host
  | .hostOp => .host
  | .anyAgent => .host
  | .coreOnly => .core
  | .busEngine => .device

/-- The operand words a descriptor takes from the given ones (all of them where it does not decode). -/
def takenOperands (p : Params) (d : BitVec 16) (ws : List Word) : List Word :=
  match decode p d ws with
  | .ok (_, rest) => ws.take (ws.length - rest.length)
  | .error _ => ws

/-- The request that a word of the opcode table stands for (log 7). -/
def tableRequest (p : Params) (nbits w : Nat) : Request where
  issuer := usualIssuer (tableDescriptor nbits w)
  desc := tableDescriptor nbits w
  operands := takenOperands p (tableDescriptor nbits w) (tableOperands nbits w)

/-- `s` with a request placed before those not yet taken, where `step` takes its next one. -/
def State.withRequest (s : State) (q : Request) : State := s.setInbox (q :: s.inbox)

end Sys2Proof.Machine
end

