-- ==== Sys2Proof/Machine/Step.lean ====
section
/-! DEFINITION. One step of the machine, and the placing of a table word where the step takes its next instruction. -/

namespace Sys2Proof.Machine

/-- One step: a faulted instance takes no further step (10 R51); otherwise the next request is taken (log 1, log 7). -/
def step (s : State) : Host.Outcome State Fault Refusal :=
  match s.fault with
  | some off => .fault (.unmappedAccess off)
  | none => takeRequest s

/-- `s` with the instruction whose bits are `w` placed as the next request (log 7). -/
def State.withFetchWord (s : State) (nbits w : Nat) : State := s.withRequest (tableRequest s.params nbits w)

end Sys2Proof.Machine
end

