-- ==== Sys2Proof/Safety.lean ====
section
/-! DEFINITION. The terms claims are stated in: the invariant, the marks, the end of a run and the launch premises
(spec/60_exceptions.md R327, R328), and what a statement about an instruction says of its answer and its frame. -/

namespace Sys2Proof.Machine

/-- No fault is recorded and no refusal is recorded, in the state as a whole (60 R328, log 8). -/
def State.Clean (s : State) : Prop := s.fault = none ∧ s.refused = false

/-- The end of a run: the core is idle, the host requests nothing further, the handler duty is discharged, nothing is
recorded. The bus engine may have further steps to take (60 R327). The model's choice: without a valid handle there is no
h.bus_state, and the handler duty counts as discharged whatever the line is (log 12). -/
def State.EndOfRun (s : State) : Prop :=
  s.core = .idle ∧ (∀ q ∈ s.inbox, q.issuer ≠ .host)
    ∧ (s.attached ≠ .live ∨ s.handle.busState = .stopped ∨ s.dev.irq = false) ∧ s.Clean

/-- The launch premise "powered": no handle (60 R328); device state is whatever it is at power-on (10 R55). -/
def State.Powered (s : State) : Prop := s.attached = .absent ∧ s.core = .idle ∧ s.trace = [] ∧ s.Clean

/-- The MODE fields start leaves (70 R332). -/
def startedMode (cfg : CanConfig) : ModeBits := ⟨true, cfg.loopback, cfg.loopback, true, cfg.fd⟩

/-- TDCR as the timing tells: the offset with EN = 1 where there is one, else EN = 0 (70 R332, 41 R185). -/
def Device.TdcAs (t : Option (BitVec 8)) (d : Device) : Prop :=
  (t = none → d.tdcEn = false) ∧ ∀ o, t = some o → d.tdcEn = true ∧ d.tdco.toNat = o.toNat

/-- What start leaves in the registers that only the core writes, and in the handle (70 R332). DBTP holds the bits of its
fields; for a valid configuration those are all the bits of encode_data (`encodeData_and_mask`). -/
def State.StartedRegisters (cfg : CanConfig) (s : State) : Prop :=
  s.dev.mode = startedMode cfg ∧ s.dev.intMask = s.params.startIntMask
    ∧ (∀ k : Fin 6, s.dev.idcode[k] = s.params.filterCode ∧ s.dev.idmask[k] = 0x1FFFFFFF#32)
    ∧ s.dev.rxfifoEn = true ∧ (cfg.fd = true → s.dev.fdtxEn = true)
    ∧ s.dev.nbtp = encodeNominal s.params cfg.nominal ∧ s.dev.dbtp = encodeData s.params cfg.data &&& dbtpMask s.params
    ∧ s.dev.TdcAs (computeTdc s.handle.clockHz cfg.dataBitrate)
    ∧ s.dev.req0 = false ∧ s.dev.req1 = false
    ∧ s.handle.mode = .normal ∧ s.handle.busState = .errorActive ∧ s.handle.outstanding = []

/-- What a reset pulse leaves at 0 or empty and only the bus engine or transmit fills (10 R54, 70 R331). -/
def Device.Quiet (d : Device) : Prop :=
  d.int = 0#15 ∧ d.errwarn = false ∧ d.busoff = false ∧ d.rxerrcnt = 0#32 ∧ d.txerrcnt = 0#32
    ∧ d.req0 = false ∧ d.req1 = false ∧ d.slot0 = .idle ∧ d.slot1 = .idle ∧ d.rxfifo = [] ∧ d.errcodeValid = false

/-- The launch premise "started(cfg)": the state of 70 R332 after attach, configure(cfg) answered ok and start answered ok;
the core is idle, and the counters of the handle are as attach left them (60 R328, 10 R56). -/
def State.Started (cfg : CanConfig) (s : State) : Prop :=
  s.attached = .live ∧ s.core = .idle ∧ CanConfig.valid cfg = true ∧ s.StartedRegisters cfg ∧ s.dev.Quiet ∧ s.Clean
    ∧ s.handle = { Handle.fresh s.handle.clockHz with mode := .normal, busState := .errorActive, config := some cfg }

/-- The invariant every step keeps: the parameters are admissible (00 R9), the FIFO holds at most RX_FIFO_DEPTH entries,
none of them empty (10 R40), a stored configuration is valid (42 R196), and the core is idle between requests (10 R52). -/
def State.Inv (s : State) : Prop :=
  s.params.Admissible ∧ s.dev.rxfifo.length ≤ s.params.rxFifoDepth ∧ (∀ e ∈ s.dev.rxfifo, e ≠ [])
    ∧ s.handle.config.all CanConfig.valid = true ∧ s.core = .idle

/-- No counter of `a` exceeds that of `b` (10 R48). -/
def Stats.LeAll (a b : Stats) : Prop :=
  a.rxPackets ≤ b.rxPackets ∧ a.rxBytes ≤ b.rxBytes ∧ a.txPackets ≤ b.txPackets ∧ a.txBytes ≤ b.txBytes
    ∧ a.rxErrors ≤ b.rxErrors ∧ a.txErrors ≤ b.txErrors ∧ a.rxOverErrors ≤ b.rxOverErrors
    ∧ a.rxDropped ≤ b.rxDropped ∧ a.arbitrationLost ≤ b.arbitrationLost ∧ a.busError ≤ b.busError

/-- `d'` has the registers of `d` that the bus engine never writes and transmit does not stage (46 R268). -/
def Device.SameSettings (d d' : Device) : Prop :=
  d'.mode = d.mode ∧ d'.intMask = d.intMask ∧ d'.idcode = d.idcode ∧ d'.idmask = d.idmask ∧ d'.nbtp = d.nbtp
    ∧ d'.dbtp = d.dbtp ∧ d'.tdcEn = d.tdcEn ∧ d'.tdco = d.tdco ∧ d'.rxfifoEn = d.rxfifoEn ∧ d'.fdtxEn = d.fdtxEn

/-- `d'` has the staging registers of `d` (10 R38). -/
def Device.SameStaging (d d' : Device) : Prop := d'.txfic = d.txfic ∧ d'.txid = d.txid ∧ d'.txdat = d.txdat

/-- `d'` has the request bits of `d` (10 R24). -/
def Device.SameRequests (d d' : Device) : Prop := d'.req0 = d.req0 ∧ d'.req1 = d.req1

/-- `d'` has everything of `d` that only the core writes (46 R268). -/
def Device.SameCoreOwned (d d' : Device) : Prop := d.SameSettings d' ∧ d.SameStaging d' ∧ d.SameRequests d'

/-- The device event whose spontaneous step a bus-engine event is (30 R94, 46 R260 to R267). -/
def busInstr : BusEvent → Instr
  | .rxArrive w accept => .evRxArrive w accept
  | .rxReassert => .evRxReassert
  | .txComplete s => .evTxComplete s
  | .txWithdraw s => .evTxWithdraw s
  | .busError v => .evBusError v
  | .arbLost c => .evArbLost c
  | .errState rxc txc warn busoff raiseWarn raisePassive => .evErrState rxc txc warn busoff raiseWarn raisePassive
  | .otherFlag n => .evOtherFlag n

/-- `d'` has everything of `d` that decides whether a bus-engine step can be taken: WORK, RXFIFO_EN, the FIFO, the slots and
the request bits (46 R260 to R268). -/
def Device.SameEnabling (d d' : Device) : Prop :=
  d'.mode.work = d.mode.work ∧ d'.rxfifoEn = d.rxfifoEn ∧ d'.rxfifo = d.rxfifo
    ∧ d'.slot0 = d.slot0 ∧ d'.slot1 = d.slot1 ∧ d.SameRequests d'

/-- The instruction answers a next state with the property. -/
def AnswersWith (i : Instr) (s : State) (P : State → Prop) : Prop := ∃ t, exec i s = .next t ∧ P t

/-- The read of `r` answers `v` and changes nothing in the device. -/
def ReadsAs (r : Reg) (s : State) (v : Word) : Prop :=
  AnswersWith (readInstr r) s fun t => t.result = .word v ∧ t.dev = s.dev

/-- The read of `r` answers a word whose listed bits are the listed values and whose other bits are those of the next
drawn word, and changes nothing in the device (10 R43). -/
def ReadsBits (r : Reg) (s : State) (bits : List (Nat × Bool)) : Prop :=
  AnswersWith (readInstr r) s fun t =>
    t.dev = s.dev ∧ ∃ v, t.result = .word v ∧ (∀ b ∈ bits, v.getLsbD b.1 = b.2)
      ∧ ∀ i, i < 32 → (∀ b ∈ bits, b.1 ≠ i) → v.getLsbD i = (s.fresh 0).getLsbD i

/-- The write of `v` to `r` leaves the device `d`. -/
def WritesTo (r : Reg) (v : Word) (s : State) (d : Device) : Prop :=
  AnswersWith (writeInstr r v) s fun t => t.result = .written ∧ t.dev = d

/-- The bits of a word from `lo` on, `n` of them, with their positions. -/
def bitsFrom (w : Word) (lo n : Nat) : List (Nat × Bool) := (List.range n).map fun k => (lo + k, w.getLsbD (lo + k))

/-- The accesses of a trace, by direction and offset. -/
def accessesOf (es : List Event) : List (AccessDir × Nat) :=
  es.filterMap fun e =>
    match e with
    | .access dir off _ => some (dir, off)
    | _ => none

/-- The diagnostic frames delivered in a trace (45 R245). -/
def errorFramesOf (es : List Event) : List ErrorFrame :=
  es.filterMap fun e =>
    match e with
    | .deliverErrorFrame f => some f
    | _ => none

/-- How often the reset line was pulsed in a trace (40 R170). -/
def pulsesOf (es : List Event) : Nat := es.count .assertReset

/-- 1 if `b`, else 0. -/
def oneIf (b : Bool) : Nat := if b then 1 else 0

/-- None of the seven flags the handler handles is set, but those listed (45 R232). -/
def Device.OnlyFlags (p : Params) (d : Device) (allowed : List Nat) : Prop :=
  ∀ n ∈ [p.intTxFinish, p.intRxFinish, p.intRxBufOv, p.intErrWarn, p.intBusErr, p.intPassiveErr, p.intTxLostarb],
    n ∉ allowed → d.intFlag n = false

end Sys2Proof.Machine
end

