-- ==== Sys2Proof/Certificates/Slice0/Obligations.lean ====
section
/-! DEFINITION. The statements for the provers, each about the machine over all states it can be in, not about a program. -/

open Sys2Proof Sys2Proof.Machine

/-! ### Encoding and taking a request -/

/-- Under every admissible assignment, decoding the descriptor and operand words of a well-formed instruction gives it back
(30 R90 to R94; the operand words are the model's own, log 6). -/
def Obligations.DecodeOfEncodeIsTheInstruction : Prop :=
  ∀ (p : Params) (i : Instr), p.Admissible → WellFormed p i = true →
    decodeRequest p (encode p i).1 (encode p i).2 = .ok i

/-- Words written out from 30 R90 to R94 decode to what they stand for under P0, and reserved ones to nothing. -/
def Obligations.WrittenOutDescriptorsDecode : Prop :=
  decodeTableWord 16 0x4000 = some (.wrMode 0) ∧ decodeTableWord 16 0x000C = some .rdInt
    ∧ decodeTableWord 16 0x8006 = some .opIsr
    ∧ decodeTableWord 16 0xC001 = some (.evRxArrive (.replicate 19 0) false)
    ∧ decodeTableWord 48 0x1FFFFFFF4124 = some (.wrIdmask0 0x1FFFFFFF)
    ∧ decodeTableWord 16 0x0002 = none ∧ decodeTableWord 16 0x0FFC = none ∧ decodeTableWord 16 0x1000 = none
    ∧ decodeTableWord 16 0x8106 = none ∧ decodeTableWord 16 0x800F = none ∧ decodeTableWord 16 0xC009 = none

/-- 30 R111: a descriptor with Z nonzero, Z2 nonzero or an OPN that is not assigned, whoever asks, an access whose OFF is
misaligned or names no register, unless the core issues it (20 R75), and a host request for a core-only operation or the
reset pulse, with any operand words, are refused with the marks, and the device, the rest of the handle and the trace stay as
they are (the marks and the refusal as a next state: log 8; surplus operand words: log 10). -/
def Obligations.IllegalDescriptorsAreRefused : Prop :=
  ∀ (s : State) (q : Request) (rest : List Request),
    s.fault = none → s.core = .idle → s.inbox = q :: rest →
    (descZ q.desc ≠ 0#2
      ∨ q.issuer ≠ .core ∧ (descClass q.desc = 0#2 ∨ descClass q.desc = 1#2)
          ∧ (descOff q.desc % 4 ≠ 0 ∨ ∀ r, s.params.off r ≠ descOff q.desc)
      ∨ (descClass q.desc = 2#2 ∨ descClass q.desc = 3#2) ∧ descZ2 q.desc ≠ 0#4
      ∨ descClass q.desc = 2#2 ∧ (descOpn q.desc = 0#8 ∨ 0x0E < (descOpn q.desc).toNat)
      ∨ descClass q.desc = 3#2 ∧ 0x08 < (descOpn q.desc).toNat
      ∨ q.issuer = .host ∧ descClass q.desc = 2#2 ∧ 0x0B ≤ (descOpn q.desc).toNat ∧ (descOpn q.desc).toNat ≤ 0x0D
      ∨ q.issuer = .host ∧ descClass q.desc = 3#2 ∧ descOpn q.desc = 0#8) →
    step s = .next { s with
      inbox := rest, refused := true, handle := s.refusedHandle, result := .refuse .unassignedDescriptor }

/-- A step runs the decoded instruction: with no fault recorded and a request that decodes to `i` and that its issuer may
make (a host only while the core is idle), the step is exec of `i` on the state with the request taken (the model's choice of
step: logs 1 and 7). -/
def Obligations.StepRunsTheDecodedInstruction : Prop :=
  ∀ (s : State) (q : Request) (rest : List Request) (i : Instr),
    s.fault = none → s.inbox = q :: rest → (q.issuer = .host → s.core = .idle) →
    permission q.issuer q.desc = .granted → decodeRequest s.params q.desc q.operands = .ok i →
    step s = exec i { s with inbox := rest }

/-- 20 R75, 10 R51: an access the core issues at an offset that is not a multiple of 4 or names no register records
Fault(UnmappedAccess(off)), and an instance with a recorded fault takes no further step (how the model shows both: log 9). -/
def Obligations.UnmappedCoreAccessEndsTheInstance : Prop :=
  (∀ (s : State) (q : Request) (rest : List Request),
    s.fault = none → s.inbox = q :: rest → q.issuer = .core → descZ q.desc = 0#2 →
    (descClass q.desc = 0#2 ∨ descClass q.desc = 1#2) →
    (descOff q.desc % 4 ≠ 0 ∨ ∀ r, s.params.off r ≠ descOff q.desc) →
    step s = .next { s with
      inbox := rest, core := .idle, fault := some (descOff q.desc), handle := s.faultedHandle (descOff q.desc),
      result := .fault (descOff q.desc) })
  ∧ ∀ (s : State) (off : Nat), s.fault = some off → step s = .fault (.unmappedAccess off)

/-! ### Register reads -/

/-- 40: a read of a register whose bits are all stored answers the stored word and changes nothing in the device. -/
def Obligations.StoredRegistersReadBack : Prop :=
  ∀ s : State,
    ReadsAs .intMask s s.dev.intMask ∧ ReadsAs .lostarb s s.dev.lostarb
      ∧ ReadsAs .rxerrcnt s s.dev.rxerrcnt ∧ ReadsAs .txerrcnt s s.dev.txerrcnt
      ∧ (∀ k : Fin 6, ReadsAs (.idcode k) s s.dev.idcode[k]) ∧ (∀ k : Fin 6, ReadsAs (.idmask k) s s.dev.idmask[k])
      ∧ ReadsAs .txfic s s.dev.txfic ∧ ReadsAs .txid s s.dev.txid
      ∧ ∀ i : Fin 16, ReadsAs (.txdat i) s s.dev.txdat[i]

/-- 40: a read of MODE, CMD, STATE, INT, TDCR, RXFIFO_CTRL or FDTX_CTRL answers each field at its position and a draw in
every RSV bit, and changes nothing in the device. -/
def Obligations.FieldRegistersReadTheirFields : Prop :=
  ∀ s : State, s.params.Admissible →
    ReadsBits .mode s [(s.params.modeWork, s.dev.mode.work), (s.params.modeLoopback, s.dev.mode.loopback),
        (s.params.modeSelftest, s.dev.mode.selftest), (s.params.modeAutoretx, s.dev.mode.autoretx),
        (s.params.modeFd, s.dev.mode.fd)]
      ∧ ReadsBits .cmd s [(s.params.cmdTxreq0, s.dev.req0), (s.params.cmdTxreq1, s.dev.req1)]
      ∧ ReadsBits .state s [(s.params.stateErrwarn, s.dev.errwarn), (s.params.stateBusoff, s.dev.busoff)]
      ∧ ReadsBits .int s ((List.range 15).map fun n => (n, s.dev.intFlag n))
      ∧ ReadsBits .tdcr s ((s.params.tdcrEn, s.dev.tdcEn)
          :: (List.range 6).map fun k => (s.params.tdcrTdcoSh + k, s.dev.tdco.getLsbD k))
      ∧ ReadsBits .rxfifoCtrl s [(s.params.rxfifoEn, s.dev.rxfifoEn)]
      ∧ ReadsBits .fdtxCtrl s [(s.params.fdtxEn, s.dev.fdtxEn)]

/-- 40 R142, R152, R154: a read of NBTP, DBTP or a valid ERRCODE answers the stored word in its fields and a draw in every
other bit; once acknowledged under ERRCODE_ACK_INVALIDATES, ERRCODE answers a draw. -/
def Obligations.TimingAndErrorRegistersReadTheirFields : Prop :=
  ∀ s : State, s.params.Admissible →
    ReadsAs .nbtp s s.dev.nbtp
      ∧ ReadsBits .dbtp s (bitsFrom s.dev.dbtp s.params.dbtpTseg1Sh 5 ++ bitsFrom s.dev.dbtp s.params.dbtpTseg2Sh 4
          ++ bitsFrom s.dev.dbtp s.params.dbtpBrpSh 8 ++ bitsFrom s.dev.dbtp s.params.dbtpSjwSh 4
          ++ bitsFrom s.dev.dbtp s.params.dbtpSam 1)
      ∧ (s.params.errcodeAckInvalidates = false ∨ s.dev.errcodeValid = true →
          ReadsBits .errcode s (bitsFrom s.dev.errcode s.params.errcodeType 3
            ++ bitsFrom s.dev.errcode s.params.errcodeDir 1 ++ bitsFrom s.dev.errcode s.params.errcodeLoc 16))
      ∧ (s.params.errcodeAckInvalidates = true → s.dev.errcodeValid = false → ReadsAs .errcode s (s.fresh 0))

/-- 40 R168: a read of any RXPORT(j) answers the head word of the FIFO and removes it, and its entry with its last word;
with the FIFO empty it answers a draw and removes nothing. -/
def Obligations.RxportReadPopsTheHeadWord : Prop :=
  ∀ (s : State) (j : Fin 19),
    (s.dev.rxfifo = [] → ReadsAs (.rxport j) s (s.fresh 0))
      ∧ ∀ (w : Word) (ws : List Word) (rest : List (List Word)), s.dev.rxfifo = (w :: ws) :: rest →
          AnswersWith (.rdRxport j) s fun t =>
            t.result = .word w ∧ t.dev = { s.dev with rxfifo := if ws = [] then rest else ws :: rest }

/-- 20 R76, the frame of every register access: a read appends its access to the trace, uses one draw, and changes nothing
else, but that RXPORT takes from the FIFO; a write appends its access and changes nothing outside the device. -/
def Obligations.AccessesChangeNothingElse : Prop :=
  (∀ (s t : State) (r : Reg), exec (readInstr r) s = .next t →
    ∃ v, t = { s with
        dev := t.dev, result := .word v, trace := s.trace ++ [.access .read (s.params.off r) v],
        supplied := s.supplied.drop 1, draws := s.draws + 1 }
      ∧ (r.isRxport = false → t.dev = s.dev)
      ∧ (r.isRxport = true → t.dev = { s.dev with rxfifo := t.dev.rxfifo }))
  ∧ ∀ (s t : State) (r : Reg) (v : Word), exec (writeInstr r v) s = .next t →
      t = { s with dev := t.dev, result := .written, trace := s.trace ++ [.access .write (s.params.off r) v] }

/-! ### Register writes -/

/-- 40: a write of a register whose bits are all stored stores the word there and changes nothing else in the device; a write
of a read-only register or of RXPORT has no effect on it. -/
def Obligations.WholeWordRegistersTakeOrIgnoreTheWord : Prop :=
  ∀ (s : State) (v : Word),
    WritesTo .intMask v s { s.dev with intMask := v }
      ∧ (∀ k : Fin 6, WritesTo (.idcode k) v s { s.dev with idcode := s.dev.idcode.set k.val v k.isLt })
      ∧ (∀ k : Fin 6, WritesTo (.idmask k) v s { s.dev with idmask := s.dev.idmask.set k.val v k.isLt })
      ∧ WritesTo .nbtp v s { s.dev with nbtp := v }
      ∧ WritesTo .txfic v s { s.dev with txfic := v } ∧ WritesTo .txid v s { s.dev with txid := v }
      ∧ (∀ i : Fin 16, WritesTo (.txdat i) v s { s.dev with txdat := s.dev.txdat.set i.val v i.isLt })
      ∧ WritesTo .state v s s.dev ∧ WritesTo .lostarb v s s.dev ∧ WritesTo .errcode v s s.dev
      ∧ WritesTo .rxerrcnt v s s.dev ∧ WritesTo .txerrcnt v s s.dev ∧ ∀ j : Fin 19, WritesTo (.rxport j) v s s.dev

/-- 40 R131, R155, R157, R159, R161: a write of MODE, TDCR, RXFIFO_CTRL or FDTX_CTRL stores its fields from the word's bits at
their positions and changes nothing else in the device; after a write of DBTP a read answers the word in its fields. -/
def Obligations.FieldRegistersTakeTheirFields : Prop :=
  ∀ (s : State) (v : Word), s.params.Admissible →
    WritesTo .mode v s { s.dev with mode :=
        ⟨v.getLsbD s.params.modeWork, v.getLsbD s.params.modeLoopback, v.getLsbD s.params.modeSelftest,
         v.getLsbD s.params.modeAutoretx, v.getLsbD s.params.modeFd⟩ }
      ∧ (∃ o : BitVec 6, (∀ k, k < 6 → o.getLsbD k = v.getLsbD (s.params.tdcrTdcoSh + k))
          ∧ WritesTo .tdcr v s { s.dev with tdcEn := v.getLsbD s.params.tdcrEn, tdco := o })
      ∧ WritesTo .rxfifoCtrl v s { s.dev with rxfifoEn := v.getLsbD s.params.rxfifoEn }
      ∧ WritesTo .fdtxCtrl v s { s.dev with fdtxEn := v.getLsbD s.params.fdtxEn }
      ∧ AnswersWith (.wrDbtp v) s fun t =>
          t.dev = { s.dev with dbtp := t.dev.dbtp }
            ∧ ReadsBits .dbtp t (bitsFrom v s.params.dbtpTseg1Sh 5 ++ bitsFrom v s.params.dbtpTseg2Sh 4
                ++ bitsFrom v s.params.dbtpBrpSh 8 ++ bitsFrom v s.params.dbtpSjwSh 4 ++ bitsFrom v s.params.dbtpSam 1)

/-- 40 R133: a write of CMD with a request bit set makes each such slot pending with the capture of the staging registers
and leaves the other slot; with both 0 it clears both request bits under clears_all and does nothing under no_effect. What
such a slot still had to send may still be sent, and is kept behind the capture (the model's form: log 26). -/
def Obligations.CmdWriteRequestsOrClears : Prop :=
  ∀ (s : State) (v : Word),
    AnswersWith (.wrCmd v) s fun t =>
      let r0 := v.getLsbD s.params.cmdTxreq0
      let r1 := v.getLsbD s.params.cmdTxreq1
      let clear := !r0 && !r1 && s.params.cmdZeroWrite == .clearsAll
      t.dev = { s.dev with
        req0 := (s.dev.req0 || r0) && !clear
        req1 := (s.dev.req1 || r1) && !clear
        slot0 := if r0 then .queued ⟨s.dev.txfic, s.dev.txid, s.dev.txdat⟩ s.dev.slot0.pending else s.dev.slot0
        slot1 := if r1 then .queued ⟨s.dev.txfic, s.dev.txid, s.dev.txdat⟩ s.dev.slot1.pending else s.dev.slot1 }

/-- 40 R137: a write of INT clears exactly the flags whose bit is 1, and with BUS_ERR's bit 1 it clears errcode_valid;
nothing else in the device changes. -/
def Obligations.IntWriteClearsTheWrittenFlags : Prop :=
  ∀ (s : State) (v : Word), s.params.Admissible →
    AnswersWith (.wrInt v) s fun t =>
      (∀ n, n < 15 → t.dev.intFlag n = (s.dev.intFlag n && !v.getLsbD n))
        ∧ t.dev.errcodeValid = (if v.getLsbD s.params.intBusErr then false else s.dev.errcodeValid)
        ∧ t.dev = { s.dev with int := t.dev.int, errcodeValid := t.dev.errcodeValid }

/-- 20 R77: a write of one register leaves what a read of every other register answers, but for the acknowledge, which may
invalidate ERRCODE (70 R346). -/
def Obligations.WritesLeaveOtherRegisters : Prop :=
  ∀ (s t u w : State) (r r' : Reg) (v : Word), r ≠ r' → (r ≠ .int ∨ r' ≠ .errcode) →
    exec (writeInstr r v) s = .next t → exec (readInstr r') t = .next u → exec (readInstr r') s = .next w →
    u.result = w.result

/-! ### The reset pulse and the bus engine -/

/-- 40 R170, 10 R54: the reset pulse emits assert_reset and deassert_reset, leaves the values of R54, gives each register
that R54 leaves unspecified a draw, and does not touch the handle (which draw goes to which register: log 18). -/
def Obligations.ResetPulseLeavesItsValues : Prop :=
  ∀ s : State,
    AnswersWith .evResetPulse s fun t =>
      t.dev.Quiet ∧ t.dev.tdcEn = false
        ∧ t.dev.mode =
            ⟨(s.fresh 0).getLsbD s.params.modeWork, (s.fresh 0).getLsbD s.params.modeLoopback,
             (s.fresh 0).getLsbD s.params.modeSelftest, (s.fresh 0).getLsbD s.params.modeAutoretx,
             (s.fresh 0).getLsbD s.params.modeFd⟩
        ∧ t.dev.tdco = (s.fresh 18).setWidth 6
        ∧ t.dev.rxfifoEn = (s.fresh 19).getLsbD 0 ∧ t.dev.fdtxEn = (s.fresh 20).getLsbD 0
        ∧ t.dev.intMask = s.fresh 1 ∧ t.dev.lostarb = s.fresh 2 ∧ t.dev.errcode = s.fresh 3
        ∧ (∀ k : Fin 6, t.dev.idcode[k] = s.fresh (4 + k.val) ∧ t.dev.idmask[k] = s.fresh (10 + k.val))
        ∧ t.dev.nbtp = s.fresh 16 ∧ t.dev.dbtp = s.fresh 17 ∧ t.dev.txfic = s.fresh 21 ∧ t.dev.txid = s.fresh 22
        ∧ (∀ i : Fin 16, t.dev.txdat[i] = s.fresh (23 + i.val))
        ∧ t = { s with
            dev := t.dev, trace := s.trace ++ [.assertReset, .deassertReset],
            supplied := s.supplied.drop 39, draws := s.draws + 39 }

/-- 46 R260: an arrival, enabled in work mode with the FIFO enabled, is dropped without a flag when no filter is open and
accept is 0, queued with RX_FINISH when there is room, and otherwise dropped with RX_BUF_OV; not enabled, it takes no step
(a next state with nothing changed: the model's choice, log 13). -/
def Obligations.RxArriveQueuesOrOverruns : Prop :=
  ∀ (s : State) (w : Vector Word 19) (accept : Bool), s.params.Admissible →
    (s.dev.mode.work = true → s.dev.rxfifoEn = true →
      AnswersWith (.evRxArrive w accept) s fun t =>
        t = { s with dev := t.dev, trace := s.trace ++ [.rxFromBus w] }
          ∧ t.dev = { s.dev with rxfifo := t.dev.rxfifo, int := t.dev.int }
          ∧ (if (∃ k : Fin 6, s.dev.idmask[k] &&& 0x1FFFFFFF#32 = 0x1FFFFFFF#32) ∨ accept = true then
              if s.dev.rxfifo.length < s.params.rxFifoDepth then
                t.dev.rxfifo = s.dev.rxfifo ++ [w.toList]
                  ∧ ∀ n, n < 15 → t.dev.intFlag n = (s.dev.intFlag n || n == s.params.intRxFinish)
              else
                t.dev.rxfifo = s.dev.rxfifo
                  ∧ ∀ n, n < 15 → t.dev.intFlag n = (s.dev.intFlag n || n == s.params.intRxBufOv)
            else t.dev = s.dev))
      ∧ (s.dev.mode.work = false ∨ s.dev.rxfifoEn = false → exec (.evRxArrive w accept) s = .next s)

/-- 46 R261, R267: rx_reassert with the FIFO non-empty raises RX_FINISH, other_flag raises OTHER(n), each only in work mode
and nothing else; not enabled, they take no step (log 13). -/
def Obligations.FlagEventsRaiseTheirFlag : Prop :=
  ∀ (s : State) (n : Fin 8), s.params.Admissible →
    (s.dev.mode.work = true → s.dev.rxfifo ≠ [] →
      AnswersWith .evRxReassert s fun t =>
        t = { s with dev := { s.dev with int := t.dev.int } }
          ∧ ∀ m, m < 15 → t.dev.intFlag m = (s.dev.intFlag m || m == s.params.intRxFinish))
      ∧ (s.dev.mode.work = true →
          AnswersWith (.evOtherFlag n) s fun t =>
            t = { s with dev := { s.dev with int := t.dev.int } }
              ∧ ∀ m, m < 15 → t.dev.intFlag m = (s.dev.intFlag m || m == s.params.intOther[n]))
      ∧ (s.dev.mode.work = false ∨ s.dev.rxfifo = [] → exec .evRxReassert s = .next s)
      ∧ (s.dev.mode.work = false → exec (.evOtherFlag n) s = .next s)

/-- 46 R262, R263, 40 R133: in work mode tx_complete sends a queued slot's captured frame and raises TX_FINISH, its request
bit and the other slot as before. A slot requested again while Queued sends any one of its snapshots, the newest or one it
replaced, and then either is Sent or still has the others to send, as the bus engine chooses, and each choice is open to it
(the form of the choice is the model's: log 26). In any mode tx_withdraw makes a queued slot whose request bit was cleared
Idle, with no flag; otherwise neither step is taken (log 13). -/
def Obligations.SlotEventsSendOrWithdraw : Prop :=
  ∀ (s : State) (x : SlotId), s.params.Admissible →
    (∀ snap older, s.dev.mode.work = true → s.dev.slot x = .queued snap older →
      (AnswersWith (.evTxComplete x) s fun t =>
        ∃ y ∈ snap :: older,
          t = { s with dev := t.dev, trace := s.trace ++ [.busTx x y], picks := t.picks }
            ∧ t.dev = { s.dev with slot0 := t.dev.slot0, slot1 := t.dev.slot1, int := t.dev.int }
            ∧ (t.dev.slot x = .sent y
                ∨ ∃ z rest, t.dev.slot x = .queued z rest ∧ (snap :: older).Perm (y :: z :: rest))
            ∧ (∀ z, z ≠ x → t.dev.slot z = s.dev.slot z)
            ∧ (∀ n, n < 15 → t.dev.intFlag n = (s.dev.intFlag n || n == s.params.intTxFinish))
            ∧ (older = [] → t.dev.slot x = .sent snap ∧ t.picks = s.picks))
        ∧ ∀ y ∈ snap :: older,
          (∃ c, AnswersWith (.evTxComplete x) { s with picks := c } fun t =>
            t.trace = s.trace ++ [.busTx x y] ∧ t.dev.slot x = .sent y)
          ∧ (older ≠ [] → ∃ c, AnswersWith (.evTxComplete x) { s with picks := c } fun t =>
              t.trace = s.trace ++ [.busTx x y] ∧ ∃ z rest, t.dev.slot x = .queued z rest))
      ∧ (s.dev.mode.work = false ∨ (∀ snap older, s.dev.slot x ≠ .queued snap older) →
          exec (.evTxComplete x) s = .next s)
      ∧ (∀ snap older, s.dev.slot x = .queued snap older → s.dev.req x = false →
          AnswersWith (.evTxWithdraw x) s fun t =>
            t = { s with dev := { s.dev with slot0 := t.dev.slot0, slot1 := t.dev.slot1 } }
              ∧ t.dev.slot x = .idle ∧ ∀ y, y ≠ x → t.dev.slot y = s.dev.slot y)
      ∧ (s.dev.req x = true ∨ (∀ snap older, s.dev.slot x ≠ .queued snap older) →
          exec (.evTxWithdraw x) s = .next s)

/-- 46 R264 to R266: in work mode a bus error stores its code, makes it valid and raises BUS_ERR; an arbitration loss, with a
slot queued, stores its code and raises TX_LOSTARB; err_state stores the counters and the levels and raises ERR_WARN and
PASSIVE_ERR as chosen; nothing else changes, and otherwise no step is taken (log 13). -/
def Obligations.ErrorEventsRecordWhatTheyCarry : Prop :=
  ∀ (s : State) (v rxc txc : Word) (warn busoff raiseWarn raisePassive : Bool), s.params.Admissible →
    (s.dev.mode.work = true →
      AnswersWith (.evBusError v) s fun t =>
        t = { s with dev := { s.dev with errcode := v, errcodeValid := true, int := t.dev.int } }
          ∧ ∀ n, n < 15 → t.dev.intFlag n = (s.dev.intFlag n || n == s.params.intBusErr))
      ∧ (s.dev.mode.work = true → (∃ x snap older, s.dev.slot x = .queued snap older) →
          AnswersWith (.evArbLost v) s fun t =>
            t = { s with dev := { s.dev with lostarb := v, int := t.dev.int } }
              ∧ ∀ n, n < 15 → t.dev.intFlag n = (s.dev.intFlag n || n == s.params.intTxLostarb))
      ∧ (s.dev.mode.work = true →
          AnswersWith (.evErrState rxc txc warn busoff raiseWarn raisePassive) s fun t =>
            t = { s with dev := { s.dev with
                rxerrcnt := rxc, txerrcnt := txc, errwarn := warn, busoff := busoff, int := t.dev.int } }
              ∧ ∀ n, n < 15 → t.dev.intFlag n =
                  (s.dev.intFlag n || raiseWarn && n == s.params.intErrWarn || raisePassive && n == s.params.intPassiveErr))
      ∧ (s.dev.mode.work = false →
          exec (.evBusError v) s = .next s
            ∧ exec (.evErrState rxc txc warn busoff raiseWarn raisePassive) s = .next s)
      ∧ (s.dev.mode.work = false ∨ (∀ x snap older, s.dev.slot x ≠ .queued snap older) → exec (.evArbLost v) s = .next s)

/-- 46 R268: no bus-engine step changes a register that only the core writes, a request bit or the handle; only
tx_withdraw can change anything while MODE.WORK = 0; and whether a step is taken depends on WORK, RXFIFO_EN, the FIFO, the
slots and the request bits alone, so no flag, level or enable of FD, loopback or timing keeps one from being taken (a step
not taken is a next state with nothing changed: log 13; a choice among the snapshots of a slot may be used up: log 26). -/
def Obligations.BusEngineWritesOnlyItsRegisters : Prop :=
  (∀ (s t : State) (e : Instr),
    (e = .evRxReassert ∨ (∃ w a, e = .evRxArrive w a) ∨ (∃ x, e = .evTxComplete x) ∨ (∃ x, e = .evTxWithdraw x)
      ∨ (∃ v, e = .evBusError v) ∨ (∃ c, e = .evArbLost c)
      ∨ (∃ a b c d f g, e = .evErrState a b c d f g) ∨ (∃ n, e = .evOtherFlag n)) →
    exec e s = .next t →
    s.dev.SameCoreOwned t.dev ∧ t = { s with dev := t.dev, trace := t.trace, picks := t.picks }
      ∧ (s.dev.mode.work = false → (∀ x, e ≠ .evTxWithdraw x) → t = s))
  ∧ (∀ (s : State) (b : BusEvent),
      exec (busInstr b) s = .next (if busEnabled s.dev b then
        { s.takePicks (picksNeeded s.dev b) with
          dev := busDevice s.params s.nextPick s.dev b, trace := s.trace ++ busTrace s.nextPick s.dev b } else s))
  ∧ ∀ (d d' : Device) (b : BusEvent), d.SameEnabling d' → busEnabled d' b = busEnabled d b

/-- 10 R28: the line is asserted exactly when some flag is set and its mask bit is 0. -/
def Obligations.InterruptLineIsAnUnmaskedFlag : Prop :=
  ∀ d : Device, d.irq = true ↔ ∃ n, n < 15 ∧ d.intFlag n = true ∧ d.intMask.getLsbD n = false

/-! ### Bit timing -/

/-- 41 R180, R181: which timing records are valid; the lower bounds of 1 are the spec's inference ("derived: from rule R182")
and the prescaler bound 512 its decision D39. -/
def Obligations.TimingValidityIsTheBounds : Prop :=
  ∀ t : BitTiming,
    (validNominal t = true ↔
      t.prescaler % 2 = 0 ∧ 2 ≤ t.prescaler ∧ t.prescaler ≤ 512 ∧ 1 ≤ t.syncJumpWidth ∧ t.syncJumpWidth ≤ 128
        ∧ 1 ≤ t.propSeg + t.phaseSeg1 ∧ t.propSeg + t.phaseSeg1 ≤ 128 ∧ 1 ≤ t.phaseSeg2 ∧ t.phaseSeg2 ≤ 128)
      ∧ (validData t = true ↔
        t.prescaler % 2 = 0 ∧ 2 ≤ t.prescaler ∧ t.prescaler ≤ 512 ∧ 1 ≤ t.syncJumpWidth ∧ t.syncJumpWidth ≤ 16
          ∧ 1 ≤ t.propSeg + t.phaseSeg1 ∧ t.propSeg + t.phaseSeg1 ≤ 32 ∧ 1 ≤ t.phaseSeg2 ∧ t.phaseSeg2 ≤ 16)

/-- 41 R182, R183, R186, R187: encode_nominal and encode_data of a valid record answer a word that decodes to the record's
values, under every admissible choice of the data field shifts, and change only the result; an invalid record is refused with the
marks (log 8). The handle is a valid one. -/
def Obligations.EncodedTimingsDecodeBack : Prop :=
  ∀ (s : State) (t : BitTiming), s.params.Admissible → s.attached = .live →
    (validNominal t = true →
      ∃ v, exec (.opEncodeNominal t) s = .next { s with core := .idle, result := .encoded v }
        ∧ decodeNominal s.params v
            = ⟨t.prescaler, t.syncJumpWidth, t.propSeg + t.phaseSeg1, t.phaseSeg2, t.threeSamples⟩)
      ∧ (validData t = true →
          ∃ v, exec (.opEncodeData t) s = .next { s with core := .idle, result := .encoded v }
            ∧ decodeData s.params v
                = ⟨t.prescaler, t.syncJumpWidth, t.propSeg + t.phaseSeg1, t.phaseSeg2, t.threeSamples⟩)
      ∧ (validNominal t = false →
          exec (.opEncodeNominal t) s = .next { s with
            core := .idle, refused := true, handle := { s.handle with refused := true },
            result := .refuse .invalidTiming })
      ∧ (validData t = false →
          exec (.opEncodeData t) s = .next { s with
            core := .idle, refused := true, handle := { s.handle with refused := true },
            result := .refuse .invalidTiming })

/-- 41 R182, as an equation on naturals: for a valid nominal record the fields do not overlap, so the word is their sum. -/
def Obligations.EncodeNominalIsTheSumOfItsFields : Prop :=
  ∀ (p : Params) (t : BitTiming), p.Admissible → validNominal t = true →
    (encodeNominal p t).toNat =
      (t.prescaler / 2 - 1) * 2 ^ 16 + (t.syncJumpWidth - 1) * 2 ^ 24 + (t.propSeg + t.phaseSeg1 - 1)
        + (t.phaseSeg2 - 1) * 2 ^ 8 + (if t.threeSamples then 2 ^ 31 else 0)

/-- 41 R184: compute_tdc answers none up to 2_200_000 bit/s, and above it the offset in 0..63, which does not rise with the
bit rate; nothing but the result changes. The handle is a valid one. -/
def Obligations.ComputeTdcAnswersTheOffset : Prop :=
  ∀ (s : State) (c b : Word), s.attached = .live →
    (∃ r, exec (.opComputeTdc c b) s = .next { s with core := .idle, result := .tdc r }
      ∧ (b.toNat ≤ 2200000 → r = none)
      ∧ (2200000 < b.toNat →
          ∃ o, r = some o ∧ o.toNat = min (c.toNat / b.toNat * 2 / 3) 63
            ∧ ∀ (b' : Word) (o' : BitVec 8), b.toNat ≤ b'.toNat → computeTdc c b' = some o' → o'.toNat ≤ o.toNat))

/-! ### Mode control, start and stop, the handle -/

/-- 42 R190, 00 R5, 10 R54: whatever the bus engine does meanwhile, enter_reset leaves MODE 0, no slot requested or queued,
TDCR.EN 0, the registers named a draw, and h.mode Reset; nothing else in the handle changes. With no bus-engine step between
the pulse and the MODE write, or with WORK drawn 0, the device is quiet and the line low (that is 70 R331, the spec's
inference, "derived: from 10_state.md rule R54 and 42_mode_control.md rule R190": log 25; draw numbers: log 18; the second
list of the schedule falls before the MODE write: log 1). -/
def Obligations.EnterResetLeavesResetMode : Prop :=
  ∀ s : State, s.attached = .live →
    AnswersWith .opEnterReset s fun t =>
      t.result = .ok ∧ t.dev.mode = ⟨false, false, false, false, false⟩ ∧ t.dev.tdcEn = false
        ∧ t.dev.req0 = false ∧ t.dev.req1 = false ∧ t.dev.slot0 = .idle ∧ t.dev.slot1 = .idle
        ∧ t.dev.intMask = s.fresh 1 ∧ t.dev.nbtp = s.fresh 16
        ∧ t.handle = { s.handle with mode := .reset }
        ∧ (s.schedule[1]?.getD [] = [] ∨ (s.fresh 0).getLsbD s.params.modeWork = false →
            t.dev.Quiet ∧ t.dev.irq = false)

/-- 42 R191, 20 R82: whatever the bus engine does around it, enter_normal sets WORK, leaves every other MODE bit and all other
registers the core owns, and makes h.mode Normal. -/
def Obligations.EnterNormalSetsWorkOnly : Prop :=
  ∀ s : State, s.params.Admissible → s.attached = .live →
    AnswersWith .opEnterNormal s fun t =>
      t.result = .ok ∧ t.dev.mode = { s.dev.mode with work := true }
        ∧ ({ s.dev with mode := t.dev.mode } : Device).SameCoreOwned t.dev
        ∧ t.handle = { s.handle with mode := .normal }
        ∧ (s.schedule = [] → t.dev = { s.dev with mode := t.dev.mode })

/-- 42 R194, 70 R332: with a configuration and acquire answered ok, start ends ok with the registers and the handle of R332,
whatever the bus engine does meanwhile: TDCR holds the computed offset, or EN = 0 where there is none, and DBTP a valid
configuration's encoding; with no bus-engine step in between, the device is quiet, and after attach and configure the state
is the launch premise started(cfg) (70 R332 is the spec's inference, "derived: from 42_mode_control.md rules R190 to R194";
the host's answers: log 5; what may fall between the pulse and the MODE write: log 25). -/
def Obligations.StartLeavesTheStartedState : Prop :=
  ∀ (s : State) (cfg : CanConfig), s.params.Admissible → s.attached = .live → s.handle.config = some cfg →
    nextAcquire s = true →
    AnswersWith .opStart s fun t =>
      t.result = .ok ∧ t.core = .idle ∧ t.StartedRegisters cfg
        ∧ t.dev.TdcAs (computeTdc s.handle.clockHz cfg.dataBitrate)
        ∧ (CanConfig.valid cfg = true → t.dev.dbtp = encodeData s.params cfg.data)
        ∧ t.handle = { s.handle with mode := .normal, busState := .errorActive, outstanding := [] }
        ∧ t.params = s.params ∧ t.attached = .live ∧ t.fault = s.fault ∧ t.refused = s.refused
        ∧ (s.schedule = [] → t.dev.Quiet)
        ∧ (s.schedule = [] → s.Clean → CanConfig.valid cfg = true →
            s.handle = { Handle.fresh s.handle.clockHz with config := some cfg } → t.Started cfg)

/-- 42 R194, R195, R198: start without a configuration is refused before acquire is drawn; with acquire answered fail, start,
stop and get_berr_counter end with ResourceError, the handle and the registers the core owns unchanged, and with no
bus-engine step in between the device unchanged and only acquire(fail) emitted (the refusal mark: log 8; answers: log 5). -/
def Obligations.OperationsTurnedAwayChangeNothing : Prop :=
  ∀ s : State, s.attached = .live →
    (s.handle.config = none →
      exec .opStart s = .next { s with
        core := .idle, refused := true, handle := { s.handle with refused := true }, result := .refuse .notConfigured })
      ∧ (nextAcquire s = false →
          ∀ i, (i = .opStart ∧ s.handle.config ≠ none) ∨ i = .opStop ∨ i = .opGetBerrCounter →
            AnswersWith i s fun t =>
              t.result = .resourceError ∧ t.core = .idle ∧ t.handle = s.handle ∧ s.dev.SameCoreOwned t.dev
                ∧ (s.schedule = [] → t.dev = s.dev ∧ t.trace = s.trace ++ [.acquire false]))

/-- 42 R192 to R194: with no bus-engine step in between, start pulses the reset once and makes its accesses in the source's
order: MODE, INT_MASK, the six filter pairs, RXFIFO_CTRL, the feature bits, NBTP, DBTP, TDCR, MODE. -/
def Obligations.StartAccessesInOrder : Prop :=
  ∀ (s t : State) (cfg : CanConfig), s.schedule = [] → s.attached = .live → s.handle.config = some cfg →
    nextAcquire s = true → exec .opStart s = .next t →
    let w := fun r => (AccessDir.write, s.params.off r)
    let rmw := [(AccessDir.read, s.params.off .mode), (AccessDir.write, s.params.off .mode)]
    pulsesOf t.trace = pulsesOf s.trace + 1
      ∧ accessesOf t.trace = accessesOf s.trace ++ [w .mode, w .intMask]
        ++ (List.finRange 6).flatMap (fun k => [w (.idcode k), w (.idmask k)])
        ++ [w .rxfifoCtrl] ++ (if cfg.fd then w .fdtxCtrl :: rmw else []) ++ (if cfg.loopback then rmw else []) ++ rmw
        ++ [w .nbtp, w .dbtp]
        ++ (if (computeTdc s.handle.clockHz cfg.dataBitrate).isSome then [w .tdcr] else []) ++ rmw

/-- 42 R195, 00 R5: with acquire answered ok, stop ends ok with MODE 0, no slot requested or queued, TDCR.EN 0, INT_MASK
all-ones, the line low, h.bus_state Stopped, h.mode Reset and h.outstanding empty, whatever the bus engine does meanwhile.
With no bus-engine step between the pulse and the MODE write, or with WORK drawn 0, the device is quiet as well (70 R333 is
the spec's inference, "derived: from 42_mode_control.md rule R195": log 25; the third list of the schedule falls before the
MODE write: log 1; which draw is MODE's: logs 4, 18; answers: log 5). -/
def Obligations.StopLeavesTheBlockSilent : Prop :=
  ∀ s : State, s.attached = .live → nextAcquire s = true →
    AnswersWith .opStop s fun t =>
      t.result = .ok ∧ t.core = .idle ∧ t.dev.mode = ⟨false, false, false, false, false⟩ ∧ t.dev.tdcEn = false
        ∧ t.dev.req0 = false ∧ t.dev.req1 = false ∧ t.dev.slot0 = .idle ∧ t.dev.slot1 = .idle
        ∧ t.dev.intMask = 0xFFFFFFFF#32 ∧ t.dev.irq = false
        ∧ t.handle = { s.handle with mode := .reset, busState := .stopped, outstanding := [] }
        ∧ (s.schedule[2]?.getD [] = [] ∨ ((s.addDraws 1).fresh 0).getLsbD s.params.modeWork = false → t.dev.Quiet)

/-- 42 R198: with acquire answered ok, get_berr_counter answers a pair (tx, rx) and leaves the handle, its cached counters
among it, and the registers the core owns; with no bus-engine step in between the pair is the two counters, the device is
unchanged, and the trace gains acquire, the two reads and release. -/
def Obligations.GetBerrCounterAnswersTheCounters : Prop :=
  ∀ s : State, s.attached = .live → nextAcquire s = true →
    AnswersWith .opGetBerrCounter s fun t =>
      t.core = .idle ∧ t.handle = s.handle ∧ s.dev.SameCoreOwned t.dev ∧ (∃ tx rx, t.result = .berr tx rx)
        ∧ (s.schedule = [] →
            t.result = .berr s.dev.txerrcnt s.dev.rxerrcnt ∧ t.dev = s.dev
              ∧ t.trace = s.trace ++ [.acquire true, .access .read (s.params.off .rxerrcnt) s.dev.rxerrcnt,
                  .access .read (s.params.off .txerrcnt) s.dev.txerrcnt, .release])

/-- 42 R197, 10 R56: the first attach creates the handle with R56's values, its marks clear, and the clock the host answers,
and makes no access; a second is refused; after detach it is refused like every operation (log 12; the whole-state marks
stay as they were: log 8; the draw of the clock adds nothing to the trace: log 15; answers: log 5). -/
def Obligations.AttachCreatesTheHandle : Prop :=
  ∀ s : State,
    (s.attached = .absent →
      AnswersWith .opAttach s fun t =>
        t.result = .ok ∧ t.attached = .live ∧ t.dev = s.dev ∧ t.trace = s.trace
          ∧ t.handle = ⟨.reset, .stopped, nextClock s, 0, 0, ⟨0, 0, 0, 0, 0, 0, 0, 0, 0, 0⟩, [], none, none, false⟩
          ∧ t.fault = s.fault ∧ t.refused = s.refused)
      ∧ (s.attached = .live →
          exec .opAttach s = .next { s with
            core := .idle, refused := true, handle := { s.handle with refused := true },
            result := .refuse .alreadyAttached })
      ∧ (s.attached = .invalid →
          exec .opAttach s = .next { s with core := .idle, refused := true, result := .refuse .detached })

/-- 42 R196: configure of a valid record stores it and changes nothing else; of an invalid one it answers ConfigError and
changes nothing. -/
def Obligations.ConfigureStoresOnlyValidTimings : Prop :=
  ∀ (s : State) (cfg : CanConfig), s.attached = .live →
    (validNominal cfg.nominal = true ∧ validData cfg.data = true →
      exec (.opConfigure cfg) s =
        .next { s with core := .idle, result := .ok, handle := { s.handle with config := some cfg } })
      ∧ (validNominal cfg.nominal = false ∨ validData cfg.data = false →
          exec (.opConfigure cfg) s = .next { s with core := .idle, result := .configError })

/-- 42 R199, 60 R300 code 21: detach invalidates the handle without an access, and without a valid handle every core operation
but attach, the pure functions among them (log 11), is refused with the whole-state mark and nothing else changed (logs 8
and 12). -/
def Obligations.NoOperationWithoutAHandle : Prop :=
  ∀ s : State,
    (s.attached = .live →
      AnswersWith .opDetach s fun t =>
        t.attached = .invalid ∧ t.dev = s.dev ∧ t.trace = s.trace ∧ t.refused = s.refused)
      ∧ (s.attached ≠ .live →
          ∀ i, i = .opStart ∨ i = .opStop ∨ i = .opIsr ∨ i = .opGetBerrCounter ∨ i = .opEnterReset ∨ i = .opEnterNormal
              ∨ i = .opReceive ∨ i = .opDetach ∨ (∃ cfg, i = .opConfigure cfg) ∨ (∃ f, i = .opTransmit f)
              ∨ (∃ b, i = .opEncodeNominal b) ∨ (∃ b, i = .opEncodeData b) ∨ (∃ c b, i = .opComputeTdc c b) →
            exec i s = .next { s with core := .idle, refused := true, result := .refuse .detached })

/-! ### Transmit and receive -/

/-- 43 R211: which frames transmit accepts; the clause on remote FD frames is general knowledge by the spec's own mark, the
others beyond the length bound its decision D23. -/
def Obligations.AcceptedFramesAreTheWellFormed : Prop :=
  ∀ f : Frame, wellFormedFrame f = true ↔
    (f.isFd = true ∨ f.length ≤ 8)
      ∧ (f.length ≤ 8 ∨ f.length ∈ [12, 16, 20, 24, 32, 48, 64])
      ∧ ¬(f.isFd = true ∧ f.isRemote = true)
      ∧ (f.bitRateSwitch = true → f.isFd = true)
      ∧ (f.isRemote = true ∨ f.payload.length = f.length)
      ∧ (f.isRemote = false ∨ f.payload = [])
      ∧ (if f.isExtended then f.id.toNat < 2 ^ 29 else f.id.toNat < 2 ^ 11)

/-- 43 R214, R215: a well-formed frame with a request bit free picks slot 1 if slot 0's bit is set and slot 0 otherwise, stages
ID, DLC/flags and the payload words of its length, leaves the other payload words, requests the slot with the capture of
what it staged, and records the echo, whatever the bus engine does meanwhile; with no bus-engine step in between nothing
else in the device changes (what the slot still had to send is kept behind the capture: log 26). -/
def Obligations.TransmitStagesAndRequests : Prop :=
  ∀ (s : State) (f : Frame), s.params.Admissible → s.attached = .live → wellFormedFrame f = true →
    ¬(s.dev.req0 = true ∧ s.dev.req1 = true) →
    let x := if s.dev.req0 then SlotId.slot1 else SlotId.slot0
    AnswersWith (.opTransmit f) s fun t =>
      t.result = .slot x ∧ t.core = .idle
        ∧ t.dev.txid = idWord f ∧ t.dev.txfic = dlcWord f
        ∧ (∀ i : Fin 16, t.dev.txdat[i] = if i.val < wordsFor f.length then payloadWord f i.val else s.dev.txdat[i])
        ∧ (∃ older, t.dev.slot x = .queued ⟨t.dev.txfic, t.dev.txid, t.dev.txdat⟩ older
            ∧ (s.schedule = [] → older = (s.dev.slot x).pending))
        ∧ (∀ y, t.dev.req y = (s.dev.req y || y == x)) ∧ s.dev.SameSettings t.dev
        ∧ t.handle = { s.handle with outstanding := s.handle.outstanding ++ [x] }
        ∧ (s.schedule = [] →
            (∀ y, y ≠ x → t.dev.slot y = s.dev.slot y)
              ∧ t.dev = { s.dev with
                  txid := t.dev.txid, txfic := t.dev.txfic, txdat := t.dev.txdat, req0 := t.dev.req0, req1 := t.dev.req1,
                  slot0 := t.dev.slot0, slot1 := t.dev.slot1 })

/-- 43 R214: with no bus-engine step in between, transmit stops the queue, reads CMD, writes the ID, the DLC/flags word and the
payload words in order, records the echo, and only then requests the slot. -/
def Obligations.TransmitEmitsInOrder : Prop :=
  ∀ (s t : State) (f : Frame), s.params.Admissible → s.schedule = [] → s.attached = .live → wellFormedFrame f = true →
    ¬(s.dev.req0 = true ∧ s.dev.req1 = true) → exec (.opTransmit f) s = .next t →
    let x := if s.dev.req0 then SlotId.slot1 else SlotId.slot0
    let w := fun r v => Event.access .write (s.params.off r) v
    ∃ c, t.trace = s.trace ++ [.queueStop, .access .read (s.params.off .cmd) c, w .txid (idWord f), w .txfic (dlcWord f)]
      ++ ((List.finRange 16).take (wordsFor f.length)).map (fun i => w (.txdat i) (payloadWord f i.val))
      ++ [.echoSubmitted x f, w .cmd (1#32 <<< s.params.cmdTxreq x)]

/-- 43 R214: a frame that is not well formed is refused before anything is emitted; with both request bits set the answer is
Busy, with queue_stop and the CMD read emitted and no register, slot request or echo changed. -/
def Obligations.TransmitTurnedAwayWritesNothing : Prop :=
  ∀ (s : State) (f : Frame), s.params.Admissible → s.attached = .live →
    (wellFormedFrame f = false →
      exec (.opTransmit f) s = .next { s with
        core := .idle, refused := true, handle := { s.handle with refused := true }, result := .refuse .malformedFrame })
      ∧ (wellFormedFrame f = true → s.dev.req0 = true → s.dev.req1 = true →
          AnswersWith (.opTransmit f) s fun t =>
            t.result = .busy ∧ t.core = .idle ∧ t.handle = s.handle ∧ s.dev.SameCoreOwned t.dev
              ∧ (s.schedule = [] →
                  t.dev = s.dev ∧ ∃ c, t.trace = s.trace ++ [.queueStop, .access .read (s.params.off .cmd) c]))

/-- 43 R215: with both request bits clear, two transmits one after the other use slot 0 and then slot 1, and a third answers
Busy, whatever the bus engine does meanwhile. -/
def Obligations.TwoTransmitsFillBothSlots : Prop :=
  ∀ (s : State) (f g h : Frame), s.params.Admissible → s.attached = .live → s.dev.req0 = false → s.dev.req1 = false →
    wellFormedFrame f = true → wellFormedFrame g = true → wellFormedFrame h = true →
    AnswersWith (.opTransmit f) s fun t =>
      t.result = .slot .slot0 ∧ AnswersWith (.opTransmit g) t fun u =>
        u.result = .slot .slot1 ∧ u.handle.outstanding = s.handle.outstanding ++ [.slot0, .slot1]
          ∧ AnswersWith (.opTransmit h) u fun v => v.result = .busy ∧ v.handle = u.handle

/-- 44 R222 (the spec's inference, "derived: from 43_transmit.md rules R212 and R213 and rule R221"): decoding the words
transmit stages for a well-formed frame, padded with any words, gives the frame back. -/
def Obligations.StagedFramesDecodeBack : Prop :=
  ∀ (f : Frame) (d : List Word), wellFormedFrame f = true →
    (∀ i, i < wordsFor f.length → d.getD i 0 = payloadWord f i) →
    decodeFrame (dlcWord f) (idWord f) d = f

/-- 30 R99, 44 R220: the table of dlc2len with FDF = 1, the clamp to 8 with FDF = 0, and len2dlc as the inverse of the table:
a length has the code `c` exactly when the table gives `c` that length. -/
def Obligations.LengthCodesAreABijection : Prop :=
  (∀ c : BitVec 4, [0, 1, 2, 3, 4, 5, 6, 7, 8, 12, 16, 20, 24, 32, 48, 64][c.toNat]? = some (dlc2len true c))
    ∧ (∀ c : BitVec 4, dlc2len false c = min c.toNat 8)
    ∧ ∀ (n : Nat) (c : BitVec 4), len2dlc n = some c ↔ dlc2len true c = n

/-- 44 R223, R224: receive always completes, changing no register the core owns and of the handle only the statistics; it
pops the 19 words at the head of the FIFO whatever the frame, delivers the frame they decode to and counts it, or counts one
drop when alloc answers fail; what else arrives meanwhile stays behind, and with no bus-engine step in between only the FIFO
changes and the trace shows 19 reads of RXPORT(0) to RXPORT(18) in order. -/
def Obligations.ReceiveDeliversTheHeadEntry : Prop :=
  ∀ s : State, s.attached = .live →
    (AnswersWith .opReceive s fun t =>
      t.result = .ok ∧ s.dev.SameCoreOwned t.dev ∧ t.handle = { s.handle with stats := t.handle.stats })
    ∧ ∀ (e : List Word) (rest : List (List Word)), s.dev.rxfifo = e :: rest → e.length = 19 →
      AnswersWith .opReceive s fun t =>
        let f := decodeFrame (e.getD 0 0) (e.getD 1 0) (e.drop 3)
        rest <+: t.dev.rxfifo
          ∧ ∃ ok : Bool, (∀ b, s.answers.alloc.head? = some b → ok = b)
            ∧ t.handle.stats =
                (if ok then { s.handle.stats with
                  rxPackets := s.handle.stats.rxPackets + 1,
                  rxBytes := s.handle.stats.rxBytes + (if f.isRemote then 0 else f.length) }
                else { s.handle.stats with rxDropped := s.handle.stats.rxDropped + 1 })
            ∧ (s.schedule = [] →
                t.dev = { s.dev with rxfifo := rest }
                  ∧ t.trace = s.trace
                      ++ (List.finRange 19).map (fun j => .access .read (s.params.off (.rxport j)) (e.getD j.val 0))
                      ++ [.alloc ok] ++ (if ok then [.deliverFrame f] else []))

/-! ### The interrupt handler -/

/-- 45 R230, R231, R246, R247: isr always completes; its first access reads INT, its next two the error counters, whose values
it caches; its last step is one write of INT, the only one, with the status it read, after which no flag of that status is
set; it changes neither the clock, the configuration nor the marks. -/
def Obligations.IsrAcknowledgesWhatItRead : Prop :=
  ∀ s : State, s.attached = .live →
    AnswersWith .opIsr s fun t =>
      t.result = .ok ∧ t.core = .idle
        ∧ (∃ (st : Word) (pre gap1 gap2 mid : List Event),
            t.trace = s.trace ++ pre ++ [.access .read (s.params.off .int) st]
                ++ gap1 ++ [.access .read (s.params.off .rxerrcnt) t.handle.rxerr]
                ++ gap2 ++ [.access .read (s.params.off .txerrcnt) t.handle.txerr]
                ++ mid ++ [.access .write (s.params.off .int) st]
              ∧ accessesOf pre = [] ∧ accessesOf gap1 = [] ∧ accessesOf gap2 = []
              ∧ (s.params.Admissible → (AccessDir.write, s.params.off .int) ∉ accessesOf mid)
              ∧ ∀ n, n < 15 → st.getLsbD n = true → t.dev.intFlag n = false)
        ∧ (s.schedule = [] → t.handle.rxerr = s.dev.rxerrcnt ∧ t.handle.txerr = s.dev.txerrcnt)
        ∧ t.handle.clockHz = s.handle.clockHz ∧ t.handle.config = s.handle.config
        ∧ t.attached = .live ∧ t.fault = s.fault ∧ t.refused = s.refused ∧ t.params = s.params

/-- 45 R248: with none of the seven flags set and no bus-engine step in between, isr makes four accesses, caches the counters,
clears the OTHER flags, and changes nothing else in the device or the handle. -/
def Obligations.IsrWithoutHandledFlagsOnlyAcknowledges : Prop :=
  ∀ s : State, s.params.Admissible → s.attached = .live → s.schedule = [] → s.dev.OnlyFlags s.params [] →
    AnswersWith .opIsr s fun t =>
      t.dev = { s.dev with int := 0#15 }
        ∧ t.handle = { s.handle with rxerr := s.dev.rxerrcnt, txerr := s.dev.txerrcnt }
        ∧ ∃ st, t.trace = s.trace ++ [.access .read (s.params.off .int) st,
            .access .read (s.params.off .rxerrcnt) s.dev.rxerrcnt, .access .read (s.params.off .txerrcnt) s.dev.txerrcnt,
            .access .write (s.params.off .int) st]

/-- 45 R234: with TX_FINISH the only handled flag and no bus-engine step in between, isr counts one packet with the bytes TXFIC
tells, clears both request bits under clears_all, releases the oldest echo entry if there is one, resumes the queue, and
changes nothing else in the device but INT. -/
def Obligations.IsrHandlesTxFinish : Prop :=
  ∀ s : State, s.params.Admissible → s.attached = .live → s.schedule = [] →
    s.dev.OnlyFlags s.params [s.params.intTxFinish] → s.dev.intFlag s.params.intTxFinish = true →
    AnswersWith .opIsr s fun t =>
      let n := if s.dev.txfic.getLsbD 6 then 0 else dlc2len (s.dev.txfic.getLsbD 5) (s.dev.txfic.extractLsb' 0 4)
      let keep := s.params.cmdZeroWrite == .noEffect
      t.dev = { s.dev with int := 0#15, req0 := s.dev.req0 && keep, req1 := s.dev.req1 && keep }
        ∧ t.handle = { s.handle with
            rxerr := s.dev.rxerrcnt, txerr := s.dev.txerrcnt, outstanding := s.handle.outstanding.tail,
            stats := { s.handle.stats with
              txBytes := s.handle.stats.txBytes + n, txPackets := s.handle.stats.txPackets + 1 } }
        ∧ ∃ st, t.trace = s.trace ++ [.access .read (s.params.off .int) st,
            .access .read (s.params.off .rxerrcnt) s.dev.rxerrcnt, .access .read (s.params.off .txerrcnt) s.dev.txerrcnt,
            .access .read (s.params.off .txfic) s.dev.txfic, .access .write (s.params.off .cmd) 0]
          ++ (s.handle.outstanding.take 1).map .echoComplete
          ++ [.queueResume, .access .write (s.params.off .int) st]

/-- 45 R235: with RX_FINISH the only handled flag, a whole entry at the head of the FIFO, alloc answered ok and no bus-engine
step in between, isr delivers that one frame and leaves the other entries. -/
def Obligations.IsrHandlesRxFinishOnce : Prop :=
  ∀ (s : State) (e : List Word) (rest : List (List Word)), s.params.Admissible → s.attached = .live → s.schedule = [] →
    s.dev.OnlyFlags s.params [s.params.intRxFinish] → s.dev.intFlag s.params.intRxFinish = true →
    s.dev.rxfifo = e :: rest → e.length = 19 → s.answers.alloc.head? = some true →
    AnswersWith .opIsr s fun t =>
      let f := decodeFrame (e.getD 0 0) (e.getD 1 0) (e.drop 3)
      t.dev = { s.dev with int := 0#15, rxfifo := rest }
        ∧ t.handle = { s.handle with
            rxerr := s.dev.rxerrcnt, txerr := s.dev.txerrcnt,
            stats := { s.handle.stats with
              rxPackets := s.handle.stats.rxPackets + 1,
              rxBytes := s.handle.stats.rxBytes + (if f.isRemote then 0 else f.length) } }
        ∧ t.trace.count (.deliverFrame f) = s.trace.count (.deliverFrame f) + 1

/-- 45 R236, R232, 70 R344: with no bus-engine step in between, isr pulses the reset exactly once if RX_BUF_OV is set and
never otherwise, whatever else is set; after the recovery only MODE.WORK is set, the FIFO, the slots and the request bits
are empty, and TDCR.EN is 0. -/
def Obligations.IsrRecoversExactlyOncePerOverrun : Prop :=
  ∀ s : State, s.params.Admissible → s.attached = .live → s.schedule = [] →
    AnswersWith .opIsr s fun t =>
      pulsesOf t.trace = pulsesOf s.trace + oneIf (s.dev.intFlag s.params.intRxBufOv)
        ∧ t.dev.int = 0#15
        ∧ (s.dev.intFlag s.params.intRxBufOv = true →
            t.dev.mode = ⟨true, false, false, false, false⟩ ∧ t.dev.Quiet ∧ t.dev.tdcEn = false
              ∧ t.handle.mode = .normal)
        ∧ (s.dev.intFlag s.params.intRxBufOv = false →
            s.dev.SameSettings t.dev ∧ s.dev.SameStaging t.dev ∧ t.handle.mode = s.handle.mode)

/-- 45 R237, R239, R242: with no bus-engine step in between, the bus state isr leaves is that of the target the flags compute,
from the STATE levels (0 after an overrun recovery) and the toggle, but that BusOff and Stopped are never left; R244:
notify_bus_off is emitted once if BusOff is stored anew, and else not. -/
def Obligations.IsrComputesTheBusState : Prop :=
  ∀ s : State, s.params.Admissible → s.attached = .live → s.schedule = [] →
    AnswersWith .opIsr s fun t =>
      let reset := s.dev.intFlag s.params.intRxBufOv
      let t0 :=
        if s.dev.intFlag s.params.intErrWarn then
          if s.dev.busoff && !reset then BusState.busOff
          else if s.dev.errwarn && !reset then .errorWarning
          else .errorActive
        else s.handle.busState
      let t1 :=
        if s.dev.intFlag s.params.intPassiveErr then
          if t0 = .errorPassive then BusState.errorWarning else .errorPassive
        else t0
      t.handle.busState =
          (if s.handle.busState = .busOff ∨ s.handle.busState = .stopped then s.handle.busState else t1)
        ∧ t.trace.count .notifyBusOff = s.trace.count .notifyBusOff
            + oneIf (t.handle.busState == .busOff && s.handle.busState != .busOff)

/-- 45 R232, R234 to R236, R238, R241: with no bus-engine step in between, each flag set counts exactly once in its counters,
whatever else is set: RX_FINISH one packet with its bytes or one drop, as the first allocation is answered (log 5). Only the
diagnostic frame, which has the next answer, can count a drop besides (R240). -/
def Obligations.IsrCountsEachFlagOnce : Prop :=
  ∀ s : State, s.params.Admissible → s.attached = .live → s.schedule = [] →
    AnswersWith .opIsr s fun t =>
      let a := s.handle.stats
      let b := t.handle.stats
      b.txPackets = a.txPackets + oneIf (s.dev.intFlag s.params.intTxFinish)
        ∧ b.rxOverErrors = a.rxOverErrors + oneIf (s.dev.intFlag s.params.intRxBufOv)
        ∧ b.rxErrors = a.rxErrors + oneIf (s.dev.intFlag s.params.intRxBufOv)
        ∧ b.busError = a.busError + oneIf (s.dev.intFlag s.params.intBusErr)
        ∧ b.arbitrationLost = a.arbitrationLost + oneIf (s.dev.intFlag s.params.intTxLostarb)
        ∧ b.txErrors = a.txErrors + oneIf (s.dev.intFlag s.params.intTxLostarb)
        ∧ b.txBytes = a.txBytes + (if s.dev.intFlag s.params.intTxFinish && !s.dev.txfic.getLsbD 6 then
            dlc2len (s.dev.txfic.getLsbD 5) (s.dev.txfic.extractLsb' 0 4) else 0)
        ∧ (s.dev.intFlag s.params.intRxFinish = false → b.rxPackets = a.rxPackets ∧ b.rxBytes = a.rxBytes)
        ∧ (s.dev.intFlag s.params.intRxFinish = true →
            ∃ ok : Bool, (∀ x, s.answers.alloc.head? = some x → ok = x)
              ∧ b.rxPackets = a.rxPackets + oneIf ok
              ∧ (ok = false → b.rxBytes = a.rxBytes)
              ∧ (∀ e rest, s.dev.rxfifo = e :: rest → e.length = 19 → ok = true →
                  let f := decodeFrame (e.getD 0 0) (e.getD 1 0) (e.drop 3)
                  b.rxBytes = a.rxBytes + (if f.isRemote then 0 else f.length))
              ∧ a.rxDropped + oneIf (!ok) ≤ b.rxDropped ∧ b.rxDropped ≤ a.rxDropped + oneIf (!ok) + 1
              ∧ (s.answers.alloc[1]? = some true → b.rxDropped = a.rxDropped + oneIf (!ok)))

/-- 45 R238, R241, 30 R110: with BUS_ERR and TX_LOSTARB the only handled flags set, a valid ERRCODE, alloc answered ok and no
bus-engine step in between, isr delivers one diagnostic frame with the classified error and the raw arbitration code. -/
def Obligations.IsrDiagnosesBusErrorAndLostArbitration : Prop :=
  ∀ s : State, s.params.Admissible → s.attached = .live → s.schedule = [] →
    s.dev.OnlyFlags s.params [s.params.intBusErr, s.params.intTxLostarb] →
    s.dev.intFlag s.params.intBusErr = true → s.dev.intFlag s.params.intTxLostarb = true →
    s.dev.errcodeValid = true → s.answers.alloc.head? = some true →
    AnswersWith .opIsr s fun t =>
      let code := s.dev.errcode.extractLsb' s.params.errcodeType 3
      let kind :=
        if code = s.params.errtypeBit then ErrKind.bit
        else if code = s.params.errtypeForm then .form
        else if code = s.params.errtypeStuff then .stuff
        else .other
      errorFramesOf t.trace = errorFramesOf s.trace ++ [{
        busError := some ⟨kind,
          if s.dev.errcode.getLsbD s.params.errcodeDir = s.params.errcodeDirRxValue then .rx else .tx,
          if kind = .other then some (s.dev.errcode.extractLsb' s.params.errcodeLoc 16) else none⟩
        arbLost := some s.dev.lostarb }]

/-- 45 R239, R240, R242 to R245: with PASSIVE_ERR the only handled flag, the state error-active and no bus-engine step in
between, isr stores ErrorPassive; with alloc answered ok it delivers one diagnostic frame that attributes the state to the
side with the higher counter, to both on a tie; with alloc answered fail it counts one drop and delivers none. -/
def Obligations.IsrAttributesTheStateChange : Prop :=
  ∀ s : State, s.params.Admissible → s.attached = .live → s.schedule = [] →
    s.dev.OnlyFlags s.params [s.params.intPassiveErr] → s.dev.intFlag s.params.intPassiveErr = true →
    s.handle.busState = .errorActive →
    AnswersWith .opIsr s fun t =>
      t.handle.busState = .errorPassive
        ∧ (s.answers.alloc.head? = some true →
            errorFramesOf t.trace = errorFramesOf s.trace ++ [{
              stateChange := some ⟨
                if s.dev.rxerrcnt.toNat ≤ s.dev.txerrcnt.toNat then some .errorPassive else none,
                if s.dev.txerrcnt.toNat ≤ s.dev.rxerrcnt.toNat then some .errorPassive else none⟩ }]
              ∧ t.handle.stats = s.handle.stats)
        ∧ (s.answers.alloc.head? = some false →
            errorFramesOf t.trace = errorFramesOf s.trace
              ∧ t.handle.stats = { s.handle.stats with rxDropped := s.handle.stats.rxDropped + 1 })

/-! ### Whole-machine rules -/

/-- 90 C3, 45 R242: whatever the bus engine and the host do, no instruction but start, stop and detach leaves BusOff. -/
def Obligations.BusOffIsLeftOnlyByStartOrStop : Prop :=
  ∀ (i : Instr) (s t : State), exec i s = .next t → s.attached = .live → s.handle.busState = .busOff →
    i ≠ .opStart → i ≠ .opStop → i ≠ .opDetach → t.handle.busState = .busOff

/-- 10 R48: no instruction lowers a statistics counter while the handle lives. -/
def Obligations.StatisticsNeverFall : Prop :=
  ∀ (i : Instr) (s t : State), exec i s = .next t → s.attached = .live → t.attached = .live →
    s.handle.stats.LeAll t.handle.stats

/-- 00 R13, 10 R51: no step changes the parameters or clears the refusal mark, and no instruction changes the fault mark (the
parameters and the marks as fields of State: logs 2 and 8). -/
def Obligations.MarksAndParametersStay : Prop :=
  (∀ s t : State, step s = .next t → t.params = s.params ∧ (s.refused = true → t.refused = true))
    ∧ ∀ (i : Instr) (s t : State), exec i s = .next t → t.params = s.params ∧ t.fault = s.fault

/-- 60 R302: an instruction that clears an INT flag is a write of INT or one that pulses the reset or acknowledges. -/
def Obligations.FlagsAreClearedOnlyByAcknowledgeOrReset : Prop :=
  ∀ (i : Instr) (s t : State) (n : Nat), exec i s = .next t → s.dev.intFlag n = true → t.dev.intFlag n = false →
    (∃ v, i = .wrInt v) ∨ i = .evResetPulse ∨ i = .opEnterReset ∨ i = .opStart ∨ i = .opStop ∨ i = .opIsr

/-- 10 R45, R47: only the operations that enter a mode, attach and detach change h.mode, and only isr, attach and detach the
cached counters. -/
def Obligations.HandleFieldsHaveTheirWriters : Prop :=
  ∀ (i : Instr) (s t : State), exec i s = .next t → i ≠ .opAttach → i ≠ .opDetach →
    (t.handle.mode = s.handle.mode
        ∨ i = .opEnterReset ∨ i = .opEnterNormal ∨ i = .opStart ∨ i = .opStop ∨ i = .opIsr)
      ∧ (t.handle.txerr = s.handle.txerr ∧ t.handle.rxerr = s.handle.rxerr ∨ i = .opIsr)
      ∧ t.handle.clockHz = s.handle.clockHz

/-- The invariant holds at reset (the model's invariant and its reset state: logs 2 and 3). -/
def Obligations.InvariantHoldsAtReset : Prop := State.reset.Inv

/-- Every step keeps the invariant: admissible parameters, a FIFO within its depth with no empty entry, a valid stored
configuration, an idle core between requests (the model's invariant: logs 1, 2 and 22). -/
def Obligations.EveryStepKeepsTheInvariant : Prop := ∀ s t : State, s.Inv → step s = .next t → t.Inv
end

