-- ==== Sys2Proof/Laws/Bits.lean ====
section
/-! SUPPORT. What the bit-field helpers do, bit by bit, and what an admissible assignment says of the positions
(spec/00_scope.md R9, R10, spec/10_state.md R23 to R43). -/

namespace Sys2Proof

/-- Of fields that fit, each lies below the width. -/
theorem fieldsFit_lt {w : Nat} {fs : List (Nat × Nat)} (h : fieldsFit w fs = true) {f : Nat × Nat} (hf : f ∈ fs) :
    f.1 + f.2 ≤ w := by
  simp only [fieldsFit, Bool.and_eq_true, List.all_eq_true, decide_eq_true_eq] at h
  exact h.1 f hf

/-- Fields that share no bit, pair by pair. -/
theorem fieldsDisjoint_pairwise {fs : List (Nat × Nat)} (h : fieldsDisjoint fs = true) :
    fs.Pairwise fun a b => a.1 + a.2 ≤ b.1 ∨ b.1 + b.2 ≤ a.1 := by
  induction fs with
  | nil => exact .nil
  | cons a rest ih =>
    simp only [fieldsDisjoint, Bool.and_eq_true, List.all_eq_true, Bool.or_eq_true, decide_eq_true_eq] at h
    exact .cons h.1 (ih h.2)

/-- The conditions of 00 R9, one by one. -/
theorem Params.Admissible.parts {p : Params} (h : p.Admissible) :
    p.offsetsOk = true
      ∧ fieldsFit 32 [(p.modeWork, 1), (p.modeLoopback, 1), (p.modeSelftest, 1), (p.modeAutoretx, 1), (p.modeFd, 1)] = true
      ∧ fieldsFit 32 [(p.cmdTxreq0, 1), (p.cmdTxreq1, 1)] = true
      ∧ fieldsFit 32 [(p.stateErrwarn, 1), (p.stateBusoff, 1)] = true
      ∧ fieldsFit 15 p.intFields = true
      ∧ fieldsFit 32 [(p.errcodeLoc, 16), (p.errcodeDir, 1), (p.errcodeType, 3)] = true
      ∧ p.nbtpSam = 31 ∧ fieldsFit 32 p.dbtpFields = true
      ∧ fieldsFit 32 [(p.tdcrEn, 1), (p.tdcrTdcoSh, 6)] = true
      ∧ p.rxfifoEn < 32 ∧ p.fdtxEn < 32 ∧ 1 ≤ p.rxFifoDepth := by
  simp only [Params.Admissible, Params.admissible, Bool.and_eq_true, decide_eq_true_eq, beq_iff_eq, and_assoc] at h
  exact h

/-- The MODE bits are five different bits of the word (00 R9, 10 R23). -/
theorem Params.Admissible.mode {p : Params} (h : p.Admissible) :
    (p.modeWork < 32 ∧ p.modeLoopback < 32 ∧ p.modeSelftest < 32 ∧ p.modeAutoretx < 32 ∧ p.modeFd < 32)
      ∧ (p.modeWork ≠ p.modeLoopback ∧ p.modeWork ≠ p.modeSelftest ∧ p.modeWork ≠ p.modeAutoretx ∧ p.modeWork ≠ p.modeFd)
      ∧ (p.modeLoopback ≠ p.modeSelftest ∧ p.modeLoopback ≠ p.modeAutoretx ∧ p.modeLoopback ≠ p.modeFd)
      ∧ (p.modeSelftest ≠ p.modeAutoretx ∧ p.modeSelftest ≠ p.modeFd) ∧ p.modeAutoretx ≠ p.modeFd := by
  have h := h.parts.2.1
  simp [fieldsFit, fieldsDisjoint] at h
  omega

/-- The two request bits are different bits of the word (10 R24). -/
theorem Params.Admissible.cmd {p : Params} (h : p.Admissible) :
    p.cmdTxreq0 < 32 ∧ p.cmdTxreq1 < 32 ∧ p.cmdTxreq0 ≠ p.cmdTxreq1 := by
  have h := h.parts.2.2.1
  simp [fieldsFit, fieldsDisjoint] at h
  omega

/-- The two levels are different bits of the word (10 R25). -/
theorem Params.Admissible.state {p : Params} (h : p.Admissible) :
    p.stateErrwarn < 32 ∧ p.stateBusoff < 32 ∧ p.stateErrwarn ≠ p.stateBusoff := by
  have h := h.parts.2.2.2.1
  simp [fieldsFit, fieldsDisjoint] at h
  omega

/-- Every INT field is one bit wide. -/
theorem Params.intFields_width (p : Params) : ∀ f ∈ p.intFields, f.2 = 1 := by
  simp only [Params.intFields, List.mem_append, List.mem_cons, List.not_mem_nil, or_false, List.mem_map]
  rintro f ((rfl | rfl | rfl | rfl | rfl | rfl | rfl) | ⟨n, -, rfl⟩) <;> rfl

/-- The positions of the INT bits are different (00 R9, 10 R26). -/
theorem Params.Admissible.int_nodup {p : Params} (h : p.Admissible) : (p.intFields.map Prod.fst).Nodup := by
  have h := h.parts.2.2.2.2.1
  simp only [fieldsFit, Bool.and_eq_true] at h
  rw [List.Nodup, List.pairwise_map]
  refine (fieldsDisjoint_pairwise h.2).imp_of_mem fun {a b} ha hb hab => ?_
  have := p.intFields_width a ha
  have := p.intFields_width b hb
  omega

/-- The seven handled INT bits are different bits (00 R9, 10 R26). -/
theorem Params.Admissible.int_ne {p : Params} (h : p.Admissible) :
    [p.intTxFinish, p.intRxFinish, p.intRxBufOv, p.intErrWarn, p.intBusErr, p.intPassiveErr, p.intTxLostarb].Nodup := by
  have h := h.int_nodup
  simp only [Params.intFields, List.map_append] at h
  exact (List.nodup_append.mp h).1

/-- The INT bits lie in 14:0 (00 R9, 10 R26). -/
theorem Params.Admissible.int_lt {p : Params} (h : p.Admissible) :
    p.intTxFinish < 15 ∧ p.intRxFinish < 15 ∧ p.intRxBufOv < 15 ∧ p.intErrWarn < 15 ∧ p.intBusErr < 15
      ∧ p.intPassiveErr < 15 ∧ p.intTxLostarb < 15 ∧ ∀ n : Fin 8, p.intOther[n] < 15 := by
  have key : ∀ k, (k, 1) ∈ p.intFields → k < 15 := fun k hk => fieldsFit_lt h.parts.2.2.2.2.1 hk
  refine ⟨key _ ?_, key _ ?_, key _ ?_, key _ ?_, key _ ?_, key _ ?_, key _ ?_, fun n => key _ ?_⟩
  all_goals simp [Params.intFields]

/-- ERRCODE's fields lie in the word and share no bit (00 R9, 10 R30). -/
theorem Params.Admissible.errcode {p : Params} (h : p.Admissible) :
    p.errcodeLoc + 16 ≤ 32 ∧ p.errcodeDir < 32 ∧ p.errcodeType + 3 ≤ 32
      ∧ (p.errcodeLoc + 16 ≤ p.errcodeDir ∨ p.errcodeDir < p.errcodeLoc)
      ∧ (p.errcodeLoc + 16 ≤ p.errcodeType ∨ p.errcodeType + 3 ≤ p.errcodeLoc)
      ∧ (p.errcodeDir < p.errcodeType ∨ p.errcodeType + 3 ≤ p.errcodeDir) := by
  have h := h.parts.2.2.2.2.2.1
  simp [fieldsFit, fieldsDisjoint] at h
  omega

/-- DBTP's fields lie in the word and share no bit (00 R9, 10 R34). -/
theorem Params.Admissible.dbtp {p : Params} (h : p.Admissible) :
    (p.dbtpTseg1Sh + 5 ≤ 32 ∧ p.dbtpTseg2Sh + 4 ≤ 32 ∧ p.dbtpBrpSh + 8 ≤ 32 ∧ p.dbtpSjwSh + 4 ≤ 32 ∧ p.dbtpSam < 32)
      ∧ (p.dbtpTseg1Sh + 5 ≤ p.dbtpTseg2Sh ∨ p.dbtpTseg2Sh + 4 ≤ p.dbtpTseg1Sh)
      ∧ (p.dbtpTseg1Sh + 5 ≤ p.dbtpBrpSh ∨ p.dbtpBrpSh + 8 ≤ p.dbtpTseg1Sh)
      ∧ (p.dbtpTseg1Sh + 5 ≤ p.dbtpSjwSh ∨ p.dbtpSjwSh + 4 ≤ p.dbtpTseg1Sh)
      ∧ (p.dbtpTseg1Sh + 5 ≤ p.dbtpSam ∨ p.dbtpSam < p.dbtpTseg1Sh)
      ∧ (p.dbtpTseg2Sh + 4 ≤ p.dbtpBrpSh ∨ p.dbtpBrpSh + 8 ≤ p.dbtpTseg2Sh)
      ∧ (p.dbtpTseg2Sh + 4 ≤ p.dbtpSjwSh ∨ p.dbtpSjwSh + 4 ≤ p.dbtpTseg2Sh)
      ∧ (p.dbtpTseg2Sh + 4 ≤ p.dbtpSam ∨ p.dbtpSam < p.dbtpTseg2Sh)
      ∧ (p.dbtpBrpSh + 8 ≤ p.dbtpSjwSh ∨ p.dbtpSjwSh + 4 ≤ p.dbtpBrpSh)
      ∧ (p.dbtpBrpSh + 8 ≤ p.dbtpSam ∨ p.dbtpSam < p.dbtpBrpSh)
      ∧ (p.dbtpSjwSh + 4 ≤ p.dbtpSam ∨ p.dbtpSam < p.dbtpSjwSh) := by
  have h := h.parts.2.2.2.2.2.2.2.1
  simp [fieldsFit, fieldsDisjoint, Params.dbtpFields] at h
  omega

/-- TDCR's fields lie in the word and share no bit (00 R9, 10 R35). -/
theorem Params.Admissible.tdcr {p : Params} (h : p.Admissible) :
    p.tdcrEn < 32 ∧ p.tdcrTdcoSh + 6 ≤ 32 ∧ (p.tdcrEn < p.tdcrTdcoSh ∨ p.tdcrTdcoSh + 6 ≤ p.tdcrEn) := by
  have h := h.parts.2.2.2.2.2.2.2.2.1
  simp [fieldsFit, fieldsDisjoint] at h
  omega

/-- Every register is listed. -/
theorem Reg.mem_all (r : Reg) : r ∈ Reg.all := by
  cases r <;> simp [Reg.all]

/-- An admissible offset is a multiple of 4 below 0x1000, and no other register has it, but read ports among themselves
(00 R9). -/
theorem Params.Admissible.off {p : Params} (h : p.Admissible) (r : Reg) :
    p.off r % 4 = 0 ∧ p.off r < 0x1000
      ∧ ∀ r', r = r' ∨ (r.isRxport = true ∧ r'.isRxport = true) ∨ p.off r ≠ p.off r' := by
  have h := h.parts.1
  simp only [Params.offsetsOk, List.all_eq_true, Bool.and_eq_true, beq_iff_eq, decide_eq_true_eq, Bool.or_eq_true,
    bne_iff_ne, and_assoc] at h
  obtain ⟨h1, h2, h3⟩ := h r r.mem_all
  refine ⟨h1, h2, fun r' => ?_⟩
  have := h3 r' r'.mem_all
  tauto

end Sys2Proof

namespace Sys2Proof.Machine

theorem bit_getLsbD (n i : Nat) : (bit n).getLsbD i = (decide (i < 32) && i == n) := by
  rw [Bool.eq_iff_iff]
  simp only [bit, BitVec.getLsbD_shiftLeft, BitVec.getLsbD_one, Bool.and_eq_true, Bool.not_eq_true', decide_eq_true_eq,
    decide_eq_false_iff_not, beq_iff_eq]
  omega

theorem bitIf_getLsbD (b : Bool) (n i : Nat) : (bitIf b n).getLsbD i = (b && decide (i < 32) && i == n) := by
  cases b <;> simp [bitIf, bit_getLsbD]

theorem fieldMask_getLsbD (lo w i : Nat) :
    (fieldMask lo w).getLsbD i = (decide (i < 32) && decide (lo ≤ i) && decide (i < lo + w)) := by
  rw [Bool.eq_iff_iff]
  simp only [fieldMask, BitVec.getLsbD_shiftLeft, BitVec.getLsbD_ofNat, Nat.testBit_two_pow_sub_one, Bool.and_eq_true,
    Bool.not_eq_true', decide_eq_true_eq, decide_eq_false_iff_not]
  omega

/-- A read value has the fields where the mask is set and the draw elsewhere (10 R43). -/
theorem withRsv_getLsbD (m v f : Word) (i : Nat) :
    (withRsv m v f).getLsbD i = if m.getLsbD i then v.getLsbD i else f.getLsbD i := by
  by_cases h : i < 32
  · cases hm : m.getLsbD i <;>
      simp only [withRsv, BitVec.getLsbD_or, BitVec.getLsbD_and, BitVec.getLsbD_not, hm, h] <;> simp
  · simp [withRsv, BitVec.getLsbD_of_ge _ _ (Nat.le_of_not_lt h)]

theorem withRsv_of_mask {m : Word} (h : m = BitVec.allOnes 32) (v f : Word) : withRsv m v f = v := by
  apply BitVec.eq_of_getLsbD_eq
  intro i hi
  rw [withRsv_getLsbD, h, BitVec.getLsbD_allOnes]
  simp only [hi, decide_true, if_true]

/-- Every bit of NBTP belongs to a field (10 R33). -/
theorem nbtpMask_eq {p : Params} (h : p.Admissible) : nbtpMask p = BitVec.allOnes 32 := by
  rw [nbtpMask, h.parts.2.2.2.2.2.2.1]; decide

/-- The bits of a natural placed at `sh`, where it fits `w` bits of the word (00 R10). -/
theorem natAt_getLsbD {n sh w : Nat} (h : n < 2 ^ w) (hs : sh + w ≤ 32) (i : Nat) :
    (natAt n sh).getLsbD i = (decide (sh ≤ i) && decide (i < sh + w) && n.testBit (i - sh)) := by
  rw [Bool.eq_iff_iff]
  simp only [natAt, BitVec.getLsbD_shiftLeft, BitVec.getLsbD_ofNat, Bool.and_eq_true, decide_eq_true_eq,
    Bool.not_eq_true', decide_eq_false_iff_not]
  have key : n.testBit (i - sh) = true → i - sh < w := by
    intro h1
    by_contra hc
    rw [Nat.testBit_lt_two_pow (lt_of_lt_of_le h (Nat.pow_le_pow_right (by omega) (by omega)))] at h1
    cases h1
  constructor
  · rintro ⟨⟨h1, h2⟩, h3, h4⟩
    have := key h4
    exact ⟨⟨by omega, by omega⟩, h4⟩
  · rintro ⟨⟨h1, h2⟩, h4⟩
    exact ⟨⟨by omega, by omega⟩, by omega, h4⟩

/-- A field is the natural whose bits it has (41 R187). -/
theorem field_eq {r : Word} {sh w n : Nat} (hn : n < 2 ^ w) (h : ∀ k, k < w → r.getLsbD (sh + k) = n.testBit k) :
    field r sh w = n := by
  apply Nat.eq_of_testBit_eq
  intro i
  simp only [field, Nat.testBit_mod_two_pow, BitVec.testBit_toNat, BitVec.getLsbD_ushiftRight]
  by_cases hi : i < w
  · simp [hi, h i hi]
  · simp only [hi, decide_false, Bool.false_and]
    exact (Nat.testBit_lt_two_pow (lt_of_lt_of_le hn (Nat.pow_le_pow_right (by omega) (by omega)))).symm

/-- encode_data of a valid record has no bit outside the fields of DBTP, so a write of DBTP stores all of it (41 R183,
40 R155). -/
theorem encodeData_and_mask {p : Params} (h : p.Admissible) {t : BitTiming} (ht : validData t = true) :
    encodeData p t &&& dbtpMask p = encodeData p t := by
  simp only [validData, validTiming, Bool.and_eq_true, beq_iff_eq, decide_eq_true_eq] at ht
  have hd := h.dbtp.1
  apply BitVec.eq_of_getLsbD_eq
  intro i hi
  simp only [BitVec.getLsbD_and, Bool.and_eq_left_iff_imp]
  intro hb
  simp only [encodeData, BitVec.getLsbD_or, Bool.or_eq_true, bitIf_getLsbD,
    natAt_getLsbD (n := t.prescaler / 2 - 1) (w := 8) (sh := p.dbtpBrpSh) (by omega) (by omega),
    natAt_getLsbD (n := t.syncJumpWidth - 1) (w := 4) (sh := p.dbtpSjwSh) (by omega) (by omega),
    natAt_getLsbD (n := tseg1 t - 1) (w := 5) (sh := p.dbtpTseg1Sh) (by omega) (by omega),
    natAt_getLsbD (n := t.phaseSeg2 - 1) (w := 4) (sh := p.dbtpTseg2Sh) (by omega) (by omega)] at hb
  simp only [dbtpMask, BitVec.getLsbD_or, fieldMask_getLsbD, bit_getLsbD]
  grind

/-- Raising a flag sets it and leaves the others (10 R26). -/
theorem Device.raiseInt_intFlag (n : Nat) (d : Device) (m : Nat) (hm : m < 15) :
    (d.raiseInt n).intFlag m = (d.intFlag m || m == n) := by
  rw [Bool.eq_iff_iff]
  simp only [Device.raiseInt, Device.intFlag, BitVec.getLsbD_or, BitVec.getLsbD_shiftLeft, BitVec.getLsbD_one,
    Bool.or_eq_true, Bool.and_eq_true, Bool.not_eq_true', decide_eq_true_eq, decide_eq_false_iff_not, beq_iff_eq]
  constructor <;> rintro (h | h) <;> first | exact .inl h | (right; omega)

/-- The acknowledge clears the flags written 1 and leaves the others (40 R137). -/
theorem Device.clearInt_intFlag (v : Word) (d : Device) (m : Nat) (hm : m < 15) :
    (d.clearInt v).intFlag m = (d.intFlag m && !v.getLsbD m) := by
  simp only [Device.clearInt, Device.intFlag, BitVec.getLsbD_and, BitVec.getLsbD_not, BitVec.getLsbD_setWidth, hm,
    decide_true, Bool.true_and]

end Sys2Proof.Machine
end

