-- ==== Sys2Proof/Laws/State.lean ====
section
/-! SUPPORT. What each update of the state does to each field, so that no proof unfolds a record update. -/

namespace Sys2Proof.Machine

@[simp] theorem State.updDev_params (f : Params → Device → Device) (s : State) : (s.updDev f).params = s.params := rfl
@[simp] theorem State.updDev_dev (f : Params → Device → Device) (s : State) : (s.updDev f).dev = f s.params s.dev := rfl
@[simp] theorem State.updDev_attached (f : Params → Device → Device) (s : State) : (s.updDev f).attached = s.attached := rfl
@[simp] theorem State.updDev_handle (f : Params → Device → Device) (s : State) : (s.updDev f).handle = s.handle := rfl
@[simp] theorem State.updDev_fault (f : Params → Device → Device) (s : State) : (s.updDev f).fault = s.fault := rfl
@[simp] theorem State.updDev_refused (f : Params → Device → Device) (s : State) : (s.updDev f).refused = s.refused := rfl
@[simp] theorem State.updDev_core (f : Params → Device → Device) (s : State) : (s.updDev f).core = s.core := rfl
@[simp] theorem State.updDev_result (f : Params → Device → Device) (s : State) : (s.updDev f).result = s.result := rfl
@[simp] theorem State.updDev_trace (f : Params → Device → Device) (s : State) : (s.updDev f).trace = s.trace := rfl
@[simp] theorem State.updDev_inbox (f : Params → Device → Device) (s : State) : (s.updDev f).inbox = s.inbox := rfl
@[simp] theorem State.updDev_schedule (f : Params → Device → Device) (s : State) : (s.updDev f).schedule = s.schedule := rfl
@[simp] theorem State.updDev_answers (f : Params → Device → Device) (s : State) : (s.updDev f).answers = s.answers := rfl
@[simp] theorem State.updDev_supplied (f : Params → Device → Device) (s : State) : (s.updDev f).supplied = s.supplied := rfl
@[simp] theorem State.updDev_draws (f : Params → Device → Device) (s : State) : (s.updDev f).draws = s.draws := rfl
@[simp] theorem State.updDev_picks (f : Params → Device → Device) (s : State) : (s.updDev f).picks = s.picks := rfl

@[simp] theorem State.updHandle_params (f : Handle → Handle) (s : State) : (s.updHandle f).params = s.params := rfl
@[simp] theorem State.updHandle_dev (f : Handle → Handle) (s : State) : (s.updHandle f).dev = s.dev := rfl
@[simp] theorem State.updHandle_attached (f : Handle → Handle) (s : State) : (s.updHandle f).attached = s.attached := rfl
@[simp] theorem State.updHandle_handle (f : Handle → Handle) (s : State) : (s.updHandle f).handle = f s.handle := rfl
@[simp] theorem State.updHandle_fault (f : Handle → Handle) (s : State) : (s.updHandle f).fault = s.fault := rfl
@[simp] theorem State.updHandle_refused (f : Handle → Handle) (s : State) : (s.updHandle f).refused = s.refused := rfl
@[simp] theorem State.updHandle_core (f : Handle → Handle) (s : State) : (s.updHandle f).core = s.core := rfl
@[simp] theorem State.updHandle_result (f : Handle → Handle) (s : State) : (s.updHandle f).result = s.result := rfl
@[simp] theorem State.updHandle_trace (f : Handle → Handle) (s : State) : (s.updHandle f).trace = s.trace := rfl
@[simp] theorem State.updHandle_inbox (f : Handle → Handle) (s : State) : (s.updHandle f).inbox = s.inbox := rfl
@[simp] theorem State.updHandle_schedule (f : Handle → Handle) (s : State) : (s.updHandle f).schedule = s.schedule := rfl
@[simp] theorem State.updHandle_answers (f : Handle → Handle) (s : State) : (s.updHandle f).answers = s.answers := rfl
@[simp] theorem State.updHandle_supplied (f : Handle → Handle) (s : State) : (s.updHandle f).supplied = s.supplied := rfl
@[simp] theorem State.updHandle_draws (f : Handle → Handle) (s : State) : (s.updHandle f).draws = s.draws := rfl
@[simp] theorem State.updHandle_picks (f : Handle → Handle) (s : State) : (s.updHandle f).picks = s.picks := rfl

@[simp] theorem State.updStats_params (f : Stats → Stats) (s : State) : (s.updStats f).params = s.params := rfl
@[simp] theorem State.updStats_dev (f : Stats → Stats) (s : State) : (s.updStats f).dev = s.dev := rfl
@[simp] theorem State.updStats_attached (f : Stats → Stats) (s : State) : (s.updStats f).attached = s.attached := rfl
@[simp] theorem State.updStats_handle (f : Stats → Stats) (s : State) : (s.updStats f).handle = { s.handle with stats := f s.handle.stats } := rfl
@[simp] theorem State.updStats_fault (f : Stats → Stats) (s : State) : (s.updStats f).fault = s.fault := rfl
@[simp] theorem State.updStats_refused (f : Stats → Stats) (s : State) : (s.updStats f).refused = s.refused := rfl
@[simp] theorem State.updStats_core (f : Stats → Stats) (s : State) : (s.updStats f).core = s.core := rfl
@[simp] theorem State.updStats_result (f : Stats → Stats) (s : State) : (s.updStats f).result = s.result := rfl
@[simp] theorem State.updStats_trace (f : Stats → Stats) (s : State) : (s.updStats f).trace = s.trace := rfl
@[simp] theorem State.updStats_inbox (f : Stats → Stats) (s : State) : (s.updStats f).inbox = s.inbox := rfl
@[simp] theorem State.updStats_schedule (f : Stats → Stats) (s : State) : (s.updStats f).schedule = s.schedule := rfl
@[simp] theorem State.updStats_answers (f : Stats → Stats) (s : State) : (s.updStats f).answers = s.answers := rfl
@[simp] theorem State.updStats_supplied (f : Stats → Stats) (s : State) : (s.updStats f).supplied = s.supplied := rfl
@[simp] theorem State.updStats_draws (f : Stats → Stats) (s : State) : (s.updStats f).draws = s.draws := rfl
@[simp] theorem State.updStats_picks (f : Stats → Stats) (s : State) : (s.updStats f).picks = s.picks := rfl

@[simp] theorem State.emitAll_params (es : List Event) (s : State) : (s.emitAll es).params = s.params := rfl
@[simp] theorem State.emitAll_dev (es : List Event) (s : State) : (s.emitAll es).dev = s.dev := rfl
@[simp] theorem State.emitAll_attached (es : List Event) (s : State) : (s.emitAll es).attached = s.attached := rfl
@[simp] theorem State.emitAll_handle (es : List Event) (s : State) : (s.emitAll es).handle = s.handle := rfl
@[simp] theorem State.emitAll_fault (es : List Event) (s : State) : (s.emitAll es).fault = s.fault := rfl
@[simp] theorem State.emitAll_refused (es : List Event) (s : State) : (s.emitAll es).refused = s.refused := rfl
@[simp] theorem State.emitAll_core (es : List Event) (s : State) : (s.emitAll es).core = s.core := rfl
@[simp] theorem State.emitAll_result (es : List Event) (s : State) : (s.emitAll es).result = s.result := rfl
@[simp] theorem State.emitAll_trace (es : List Event) (s : State) : (s.emitAll es).trace = s.trace ++ es := rfl
@[simp] theorem State.emitAll_inbox (es : List Event) (s : State) : (s.emitAll es).inbox = s.inbox := rfl
@[simp] theorem State.emitAll_schedule (es : List Event) (s : State) : (s.emitAll es).schedule = s.schedule := rfl
@[simp] theorem State.emitAll_answers (es : List Event) (s : State) : (s.emitAll es).answers = s.answers := rfl
@[simp] theorem State.emitAll_supplied (es : List Event) (s : State) : (s.emitAll es).supplied = s.supplied := rfl
@[simp] theorem State.emitAll_draws (es : List Event) (s : State) : (s.emitAll es).draws = s.draws := rfl
@[simp] theorem State.emitAll_picks (es : List Event) (s : State) : (s.emitAll es).picks = s.picks := rfl

@[simp] theorem State.emit_params (e : Event) (s : State) : (s.emit e).params = s.params := rfl
@[simp] theorem State.emit_dev (e : Event) (s : State) : (s.emit e).dev = s.dev := rfl
@[simp] theorem State.emit_attached (e : Event) (s : State) : (s.emit e).attached = s.attached := rfl
@[simp] theorem State.emit_handle (e : Event) (s : State) : (s.emit e).handle = s.handle := rfl
@[simp] theorem State.emit_fault (e : Event) (s : State) : (s.emit e).fault = s.fault := rfl
@[simp] theorem State.emit_refused (e : Event) (s : State) : (s.emit e).refused = s.refused := rfl
@[simp] theorem State.emit_core (e : Event) (s : State) : (s.emit e).core = s.core := rfl
@[simp] theorem State.emit_result (e : Event) (s : State) : (s.emit e).result = s.result := rfl
@[simp] theorem State.emit_trace (e : Event) (s : State) : (s.emit e).trace = s.trace ++ [e] := rfl
@[simp] theorem State.emit_inbox (e : Event) (s : State) : (s.emit e).inbox = s.inbox := rfl
@[simp] theorem State.emit_schedule (e : Event) (s : State) : (s.emit e).schedule = s.schedule := rfl
@[simp] theorem State.emit_answers (e : Event) (s : State) : (s.emit e).answers = s.answers := rfl
@[simp] theorem State.emit_supplied (e : Event) (s : State) : (s.emit e).supplied = s.supplied := rfl
@[simp] theorem State.emit_draws (e : Event) (s : State) : (s.emit e).draws = s.draws := rfl
@[simp] theorem State.emit_picks (e : Event) (s : State) : (s.emit e).picks = s.picks := rfl

@[simp] theorem State.setResult_params (r : Result) (s : State) : (s.setResult r).params = s.params := rfl
@[simp] theorem State.setResult_dev (r : Result) (s : State) : (s.setResult r).dev = s.dev := rfl
@[simp] theorem State.setResult_attached (r : Result) (s : State) : (s.setResult r).attached = s.attached := rfl
@[simp] theorem State.setResult_handle (r : Result) (s : State) : (s.setResult r).handle = s.handle := rfl
@[simp] theorem State.setResult_fault (r : Result) (s : State) : (s.setResult r).fault = s.fault := rfl
@[simp] theorem State.setResult_refused (r : Result) (s : State) : (s.setResult r).refused = s.refused := rfl
@[simp] theorem State.setResult_core (r : Result) (s : State) : (s.setResult r).core = s.core := rfl
@[simp] theorem State.setResult_result (r : Result) (s : State) : (s.setResult r).result = r := rfl
@[simp] theorem State.setResult_trace (r : Result) (s : State) : (s.setResult r).trace = s.trace := rfl
@[simp] theorem State.setResult_inbox (r : Result) (s : State) : (s.setResult r).inbox = s.inbox := rfl
@[simp] theorem State.setResult_schedule (r : Result) (s : State) : (s.setResult r).schedule = s.schedule := rfl
@[simp] theorem State.setResult_answers (r : Result) (s : State) : (s.setResult r).answers = s.answers := rfl
@[simp] theorem State.setResult_supplied (r : Result) (s : State) : (s.setResult r).supplied = s.supplied := rfl
@[simp] theorem State.setResult_draws (r : Result) (s : State) : (s.setResult r).draws = s.draws := rfl
@[simp] theorem State.setResult_picks (r : Result) (s : State) : (s.setResult r).picks = s.picks := rfl

@[simp] theorem State.setCore_params (c : CoreControl) (s : State) : (s.setCore c).params = s.params := rfl
@[simp] theorem State.setCore_dev (c : CoreControl) (s : State) : (s.setCore c).dev = s.dev := rfl
@[simp] theorem State.setCore_attached (c : CoreControl) (s : State) : (s.setCore c).attached = s.attached := rfl
@[simp] theorem State.setCore_handle (c : CoreControl) (s : State) : (s.setCore c).handle = s.handle := rfl
@[simp] theorem State.setCore_fault (c : CoreControl) (s : State) : (s.setCore c).fault = s.fault := rfl
@[simp] theorem State.setCore_refused (c : CoreControl) (s : State) : (s.setCore c).refused = s.refused := rfl
@[simp] theorem State.setCore_core (c : CoreControl) (s : State) : (s.setCore c).core = c := rfl
@[simp] theorem State.setCore_result (c : CoreControl) (s : State) : (s.setCore c).result = s.result := rfl
@[simp] theorem State.setCore_trace (c : CoreControl) (s : State) : (s.setCore c).trace = s.trace := rfl
@[simp] theorem State.setCore_inbox (c : CoreControl) (s : State) : (s.setCore c).inbox = s.inbox := rfl
@[simp] theorem State.setCore_schedule (c : CoreControl) (s : State) : (s.setCore c).schedule = s.schedule := rfl
@[simp] theorem State.setCore_answers (c : CoreControl) (s : State) : (s.setCore c).answers = s.answers := rfl
@[simp] theorem State.setCore_supplied (c : CoreControl) (s : State) : (s.setCore c).supplied = s.supplied := rfl
@[simp] theorem State.setCore_draws (c : CoreControl) (s : State) : (s.setCore c).draws = s.draws := rfl
@[simp] theorem State.setCore_picks (c : CoreControl) (s : State) : (s.setCore c).picks = s.picks := rfl

@[simp] theorem State.setAttached_params (a : Attachment) (s : State) : (s.setAttached a).params = s.params := rfl
@[simp] theorem State.setAttached_dev (a : Attachment) (s : State) : (s.setAttached a).dev = s.dev := rfl
@[simp] theorem State.setAttached_attached (a : Attachment) (s : State) : (s.setAttached a).attached = a := rfl
@[simp] theorem State.setAttached_handle (a : Attachment) (s : State) : (s.setAttached a).handle = s.handle := rfl
@[simp] theorem State.setAttached_fault (a : Attachment) (s : State) : (s.setAttached a).fault = s.fault := rfl
@[simp] theorem State.setAttached_refused (a : Attachment) (s : State) : (s.setAttached a).refused = s.refused := rfl
@[simp] theorem State.setAttached_core (a : Attachment) (s : State) : (s.setAttached a).core = s.core := rfl
@[simp] theorem State.setAttached_result (a : Attachment) (s : State) : (s.setAttached a).result = s.result := rfl
@[simp] theorem State.setAttached_trace (a : Attachment) (s : State) : (s.setAttached a).trace = s.trace := rfl
@[simp] theorem State.setAttached_inbox (a : Attachment) (s : State) : (s.setAttached a).inbox = s.inbox := rfl
@[simp] theorem State.setAttached_schedule (a : Attachment) (s : State) : (s.setAttached a).schedule = s.schedule := rfl
@[simp] theorem State.setAttached_answers (a : Attachment) (s : State) : (s.setAttached a).answers = s.answers := rfl
@[simp] theorem State.setAttached_supplied (a : Attachment) (s : State) : (s.setAttached a).supplied = s.supplied := rfl
@[simp] theorem State.setAttached_draws (a : Attachment) (s : State) : (s.setAttached a).draws = s.draws := rfl
@[simp] theorem State.setAttached_picks (a : Attachment) (s : State) : (s.setAttached a).picks = s.picks := rfl

@[simp] theorem State.markRefused_params (s : State) : (s.markRefused).params = s.params := rfl
@[simp] theorem State.markRefused_dev (s : State) : (s.markRefused).dev = s.dev := rfl
@[simp] theorem State.markRefused_attached (s : State) : (s.markRefused).attached = s.attached := rfl
@[simp] theorem State.markRefused_handle (s : State) : (s.markRefused).handle = s.refusedHandle := rfl
@[simp] theorem State.markRefused_fault (s : State) : (s.markRefused).fault = s.fault := rfl
@[simp] theorem State.markRefused_refused (s : State) : (s.markRefused).refused = true := rfl
@[simp] theorem State.markRefused_core (s : State) : (s.markRefused).core = s.core := rfl
@[simp] theorem State.markRefused_result (s : State) : (s.markRefused).result = s.result := rfl
@[simp] theorem State.markRefused_trace (s : State) : (s.markRefused).trace = s.trace := rfl
@[simp] theorem State.markRefused_inbox (s : State) : (s.markRefused).inbox = s.inbox := rfl
@[simp] theorem State.markRefused_schedule (s : State) : (s.markRefused).schedule = s.schedule := rfl
@[simp] theorem State.markRefused_answers (s : State) : (s.markRefused).answers = s.answers := rfl
@[simp] theorem State.markRefused_supplied (s : State) : (s.markRefused).supplied = s.supplied := rfl
@[simp] theorem State.markRefused_draws (s : State) : (s.markRefused).draws = s.draws := rfl
@[simp] theorem State.markRefused_picks (s : State) : (s.markRefused).picks = s.picks := rfl

@[simp] theorem State.markFault_params (off : Nat) (s : State) : (s.markFault off).params = s.params := rfl
@[simp] theorem State.markFault_dev (off : Nat) (s : State) : (s.markFault off).dev = s.dev := rfl
@[simp] theorem State.markFault_attached (off : Nat) (s : State) : (s.markFault off).attached = s.attached := rfl
@[simp] theorem State.markFault_handle (off : Nat) (s : State) : (s.markFault off).handle = s.faultedHandle off := rfl
@[simp] theorem State.markFault_fault (off : Nat) (s : State) : (s.markFault off).fault = some off := rfl
@[simp] theorem State.markFault_refused (off : Nat) (s : State) : (s.markFault off).refused = s.refused := rfl
@[simp] theorem State.markFault_core (off : Nat) (s : State) : (s.markFault off).core = s.core := rfl
@[simp] theorem State.markFault_result (off : Nat) (s : State) : (s.markFault off).result = s.result := rfl
@[simp] theorem State.markFault_trace (off : Nat) (s : State) : (s.markFault off).trace = s.trace := rfl
@[simp] theorem State.markFault_inbox (off : Nat) (s : State) : (s.markFault off).inbox = s.inbox := rfl
@[simp] theorem State.markFault_schedule (off : Nat) (s : State) : (s.markFault off).schedule = s.schedule := rfl
@[simp] theorem State.markFault_answers (off : Nat) (s : State) : (s.markFault off).answers = s.answers := rfl
@[simp] theorem State.markFault_supplied (off : Nat) (s : State) : (s.markFault off).supplied = s.supplied := rfl
@[simp] theorem State.markFault_draws (off : Nat) (s : State) : (s.markFault off).draws = s.draws := rfl
@[simp] theorem State.markFault_picks (off : Nat) (s : State) : (s.markFault off).picks = s.picks := rfl

@[simp] theorem State.setInbox_params (q : List Request) (s : State) : (s.setInbox q).params = s.params := rfl
@[simp] theorem State.setInbox_dev (q : List Request) (s : State) : (s.setInbox q).dev = s.dev := rfl
@[simp] theorem State.setInbox_attached (q : List Request) (s : State) : (s.setInbox q).attached = s.attached := rfl
@[simp] theorem State.setInbox_handle (q : List Request) (s : State) : (s.setInbox q).handle = s.handle := rfl
@[simp] theorem State.setInbox_fault (q : List Request) (s : State) : (s.setInbox q).fault = s.fault := rfl
@[simp] theorem State.setInbox_refused (q : List Request) (s : State) : (s.setInbox q).refused = s.refused := rfl
@[simp] theorem State.setInbox_core (q : List Request) (s : State) : (s.setInbox q).core = s.core := rfl
@[simp] theorem State.setInbox_result (q : List Request) (s : State) : (s.setInbox q).result = s.result := rfl
@[simp] theorem State.setInbox_trace (q : List Request) (s : State) : (s.setInbox q).trace = s.trace := rfl
@[simp] theorem State.setInbox_inbox (q : List Request) (s : State) : (s.setInbox q).inbox = q := rfl
@[simp] theorem State.setInbox_schedule (q : List Request) (s : State) : (s.setInbox q).schedule = s.schedule := rfl
@[simp] theorem State.setInbox_answers (q : List Request) (s : State) : (s.setInbox q).answers = s.answers := rfl
@[simp] theorem State.setInbox_supplied (q : List Request) (s : State) : (s.setInbox q).supplied = s.supplied := rfl
@[simp] theorem State.setInbox_draws (q : List Request) (s : State) : (s.setInbox q).draws = s.draws := rfl
@[simp] theorem State.setInbox_picks (q : List Request) (s : State) : (s.setInbox q).picks = s.picks := rfl

@[simp] theorem State.setSchedule_params (q : List (List BusEvent)) (s : State) : (s.setSchedule q).params = s.params := rfl
@[simp] theorem State.setSchedule_dev (q : List (List BusEvent)) (s : State) : (s.setSchedule q).dev = s.dev := rfl
@[simp] theorem State.setSchedule_attached (q : List (List BusEvent)) (s : State) : (s.setSchedule q).attached = s.attached := rfl
@[simp] theorem State.setSchedule_handle (q : List (List BusEvent)) (s : State) : (s.setSchedule q).handle = s.handle := rfl
@[simp] theorem State.setSchedule_fault (q : List (List BusEvent)) (s : State) : (s.setSchedule q).fault = s.fault := rfl
@[simp] theorem State.setSchedule_refused (q : List (List BusEvent)) (s : State) : (s.setSchedule q).refused = s.refused := rfl
@[simp] theorem State.setSchedule_core (q : List (List BusEvent)) (s : State) : (s.setSchedule q).core = s.core := rfl
@[simp] theorem State.setSchedule_result (q : List (List BusEvent)) (s : State) : (s.setSchedule q).result = s.result := rfl
@[simp] theorem State.setSchedule_trace (q : List (List BusEvent)) (s : State) : (s.setSchedule q).trace = s.trace := rfl
@[simp] theorem State.setSchedule_inbox (q : List (List BusEvent)) (s : State) : (s.setSchedule q).inbox = s.inbox := rfl
@[simp] theorem State.setSchedule_schedule (q : List (List BusEvent)) (s : State) : (s.setSchedule q).schedule = q := rfl
@[simp] theorem State.setSchedule_answers (q : List (List BusEvent)) (s : State) : (s.setSchedule q).answers = s.answers := rfl
@[simp] theorem State.setSchedule_supplied (q : List (List BusEvent)) (s : State) : (s.setSchedule q).supplied = s.supplied := rfl
@[simp] theorem State.setSchedule_draws (q : List (List BusEvent)) (s : State) : (s.setSchedule q).draws = s.draws := rfl
@[simp] theorem State.setSchedule_picks (q : List (List BusEvent)) (s : State) : (s.setSchedule q).picks = s.picks := rfl

@[simp] theorem State.setAnswers_params (a : Answers) (s : State) : (s.setAnswers a).params = s.params := rfl
@[simp] theorem State.setAnswers_dev (a : Answers) (s : State) : (s.setAnswers a).dev = s.dev := rfl
@[simp] theorem State.setAnswers_attached (a : Answers) (s : State) : (s.setAnswers a).attached = s.attached := rfl
@[simp] theorem State.setAnswers_handle (a : Answers) (s : State) : (s.setAnswers a).handle = s.handle := rfl
@[simp] theorem State.setAnswers_fault (a : Answers) (s : State) : (s.setAnswers a).fault = s.fault := rfl
@[simp] theorem State.setAnswers_refused (a : Answers) (s : State) : (s.setAnswers a).refused = s.refused := rfl
@[simp] theorem State.setAnswers_core (a : Answers) (s : State) : (s.setAnswers a).core = s.core := rfl
@[simp] theorem State.setAnswers_result (a : Answers) (s : State) : (s.setAnswers a).result = s.result := rfl
@[simp] theorem State.setAnswers_trace (a : Answers) (s : State) : (s.setAnswers a).trace = s.trace := rfl
@[simp] theorem State.setAnswers_inbox (a : Answers) (s : State) : (s.setAnswers a).inbox = s.inbox := rfl
@[simp] theorem State.setAnswers_schedule (a : Answers) (s : State) : (s.setAnswers a).schedule = s.schedule := rfl
@[simp] theorem State.setAnswers_answers (a : Answers) (s : State) : (s.setAnswers a).answers = a := rfl
@[simp] theorem State.setAnswers_supplied (a : Answers) (s : State) : (s.setAnswers a).supplied = s.supplied := rfl
@[simp] theorem State.setAnswers_draws (a : Answers) (s : State) : (s.setAnswers a).draws = s.draws := rfl
@[simp] theorem State.setAnswers_picks (a : Answers) (s : State) : (s.setAnswers a).picks = s.picks := rfl

@[simp] theorem State.addDraws_params (k : Nat) (s : State) : (s.addDraws k).params = s.params := rfl
@[simp] theorem State.addDraws_dev (k : Nat) (s : State) : (s.addDraws k).dev = s.dev := rfl
@[simp] theorem State.addDraws_attached (k : Nat) (s : State) : (s.addDraws k).attached = s.attached := rfl
@[simp] theorem State.addDraws_handle (k : Nat) (s : State) : (s.addDraws k).handle = s.handle := rfl
@[simp] theorem State.addDraws_fault (k : Nat) (s : State) : (s.addDraws k).fault = s.fault := rfl
@[simp] theorem State.addDraws_refused (k : Nat) (s : State) : (s.addDraws k).refused = s.refused := rfl
@[simp] theorem State.addDraws_core (k : Nat) (s : State) : (s.addDraws k).core = s.core := rfl
@[simp] theorem State.addDraws_result (k : Nat) (s : State) : (s.addDraws k).result = s.result := rfl
@[simp] theorem State.addDraws_trace (k : Nat) (s : State) : (s.addDraws k).trace = s.trace := rfl
@[simp] theorem State.addDraws_inbox (k : Nat) (s : State) : (s.addDraws k).inbox = s.inbox := rfl
@[simp] theorem State.addDraws_schedule (k : Nat) (s : State) : (s.addDraws k).schedule = s.schedule := rfl
@[simp] theorem State.addDraws_answers (k : Nat) (s : State) : (s.addDraws k).answers = s.answers := rfl
@[simp] theorem State.addDraws_supplied (k : Nat) (s : State) : (s.addDraws k).supplied = s.supplied := rfl
@[simp] theorem State.addDraws_draws (k : Nat) (s : State) : (s.addDraws k).draws = s.draws + k := rfl
@[simp] theorem State.addDraws_picks (k : Nat) (s : State) : (s.addDraws k).picks = s.picks := rfl

@[simp] theorem State.takeWords_params (k : Nat) (s : State) : (s.takeWords k).params = s.params := rfl
@[simp] theorem State.takeWords_dev (k : Nat) (s : State) : (s.takeWords k).dev = s.dev := rfl
@[simp] theorem State.takeWords_attached (k : Nat) (s : State) : (s.takeWords k).attached = s.attached := rfl
@[simp] theorem State.takeWords_handle (k : Nat) (s : State) : (s.takeWords k).handle = s.handle := rfl
@[simp] theorem State.takeWords_fault (k : Nat) (s : State) : (s.takeWords k).fault = s.fault := rfl
@[simp] theorem State.takeWords_refused (k : Nat) (s : State) : (s.takeWords k).refused = s.refused := rfl
@[simp] theorem State.takeWords_core (k : Nat) (s : State) : (s.takeWords k).core = s.core := rfl
@[simp] theorem State.takeWords_result (k : Nat) (s : State) : (s.takeWords k).result = s.result := rfl
@[simp] theorem State.takeWords_trace (k : Nat) (s : State) : (s.takeWords k).trace = s.trace := rfl
@[simp] theorem State.takeWords_inbox (k : Nat) (s : State) : (s.takeWords k).inbox = s.inbox := rfl
@[simp] theorem State.takeWords_schedule (k : Nat) (s : State) : (s.takeWords k).schedule = s.schedule := rfl
@[simp] theorem State.takeWords_answers (k : Nat) (s : State) : (s.takeWords k).answers = s.answers := rfl
@[simp] theorem State.takeWords_supplied (k : Nat) (s : State) : (s.takeWords k).supplied = s.supplied.drop k := rfl
@[simp] theorem State.takeWords_draws (k : Nat) (s : State) : (s.takeWords k).draws = s.draws + k := rfl
@[simp] theorem State.takeWords_picks (k : Nat) (s : State) : (s.takeWords k).picks = s.picks := rfl

@[simp] theorem State.takePicks_params (k : Nat) (s : State) : (s.takePicks k).params = s.params := rfl
@[simp] theorem State.takePicks_dev (k : Nat) (s : State) : (s.takePicks k).dev = s.dev := rfl
@[simp] theorem State.takePicks_attached (k : Nat) (s : State) : (s.takePicks k).attached = s.attached := rfl
@[simp] theorem State.takePicks_handle (k : Nat) (s : State) : (s.takePicks k).handle = s.handle := rfl
@[simp] theorem State.takePicks_fault (k : Nat) (s : State) : (s.takePicks k).fault = s.fault := rfl
@[simp] theorem State.takePicks_refused (k : Nat) (s : State) : (s.takePicks k).refused = s.refused := rfl
@[simp] theorem State.takePicks_core (k : Nat) (s : State) : (s.takePicks k).core = s.core := rfl
@[simp] theorem State.takePicks_result (k : Nat) (s : State) : (s.takePicks k).result = s.result := rfl
@[simp] theorem State.takePicks_trace (k : Nat) (s : State) : (s.takePicks k).trace = s.trace := rfl
@[simp] theorem State.takePicks_inbox (k : Nat) (s : State) : (s.takePicks k).inbox = s.inbox := rfl
@[simp] theorem State.takePicks_schedule (k : Nat) (s : State) : (s.takePicks k).schedule = s.schedule := rfl
@[simp] theorem State.takePicks_answers (k : Nat) (s : State) : (s.takePicks k).answers = s.answers := rfl
@[simp] theorem State.takePicks_supplied (k : Nat) (s : State) : (s.takePicks k).supplied = s.supplied := rfl
@[simp] theorem State.takePicks_draws (k : Nat) (s : State) : (s.takePicks k).draws = s.draws := rfl
@[simp] theorem State.takePicks_picks (k : Nat) (s : State) :
    (s.takePicks k).picks = ⟨s.picks.coming.drop k, s.picks.taken + k⟩ := rfl
@[simp] theorem State.takePicks_zero (s : State) : s.takePicks 0 = s := rfl

@[simp] theorem State.refusedHandle_mode (s : State) : s.refusedHandle.mode = s.handle.mode := by
  unfold State.refusedHandle; split <;> rfl
@[simp] theorem State.refusedHandle_busState (s : State) : s.refusedHandle.busState = s.handle.busState := by
  unfold State.refusedHandle; split <;> rfl
@[simp] theorem State.refusedHandle_clockHz (s : State) : s.refusedHandle.clockHz = s.handle.clockHz := by
  unfold State.refusedHandle; split <;> rfl
@[simp] theorem State.refusedHandle_txerr (s : State) : s.refusedHandle.txerr = s.handle.txerr := by
  unfold State.refusedHandle; split <;> rfl
@[simp] theorem State.refusedHandle_rxerr (s : State) : s.refusedHandle.rxerr = s.handle.rxerr := by
  unfold State.refusedHandle; split <;> rfl
@[simp] theorem State.refusedHandle_stats (s : State) : s.refusedHandle.stats = s.handle.stats := by
  unfold State.refusedHandle; split <;> rfl
@[simp] theorem State.refusedHandle_outstanding (s : State) : s.refusedHandle.outstanding = s.handle.outstanding := by
  unfold State.refusedHandle; split <;> rfl
@[simp] theorem State.refusedHandle_config (s : State) : s.refusedHandle.config = s.handle.config := by
  unfold State.refusedHandle; split <;> rfl
@[simp] theorem State.refusedHandle_fault (s : State) : s.refusedHandle.fault = s.handle.fault := by
  unfold State.refusedHandle; split <;> rfl
@[simp] theorem State.faultedHandle_mode (off : Nat) (s : State) : (s.faultedHandle off).mode = s.handle.mode := by
  unfold State.faultedHandle; split <;> rfl
@[simp] theorem State.faultedHandle_busState (off : Nat) (s : State) : (s.faultedHandle off).busState = s.handle.busState := by
  unfold State.faultedHandle; split <;> rfl
@[simp] theorem State.faultedHandle_clockHz (off : Nat) (s : State) : (s.faultedHandle off).clockHz = s.handle.clockHz := by
  unfold State.faultedHandle; split <;> rfl
@[simp] theorem State.faultedHandle_txerr (off : Nat) (s : State) : (s.faultedHandle off).txerr = s.handle.txerr := by
  unfold State.faultedHandle; split <;> rfl
@[simp] theorem State.faultedHandle_rxerr (off : Nat) (s : State) : (s.faultedHandle off).rxerr = s.handle.rxerr := by
  unfold State.faultedHandle; split <;> rfl
@[simp] theorem State.faultedHandle_stats (off : Nat) (s : State) : (s.faultedHandle off).stats = s.handle.stats := by
  unfold State.faultedHandle; split <;> rfl
@[simp] theorem State.faultedHandle_outstanding (off : Nat) (s : State) : (s.faultedHandle off).outstanding = s.handle.outstanding := by
  unfold State.faultedHandle; split <;> rfl
@[simp] theorem State.faultedHandle_config (off : Nat) (s : State) : (s.faultedHandle off).config = s.handle.config := by
  unfold State.faultedHandle; split <;> rfl
@[simp] theorem State.faultedHandle_refused (off : Nat) (s : State) : (s.faultedHandle off).refused = s.handle.refused := by
  unfold State.faultedHandle; split <;> rfl

/-- With a valid handle a refusal marks it (10 R51). -/
theorem State.refusedHandle_live {s : State} (h : s.attached = .live) : s.refusedHandle = { s.handle with refused := true } :=
  if_pos h

/-- Without one there is no handle to mark. -/
theorem State.refusedHandle_not_live {s : State} (h : s.attached ≠ .live) : s.refusedHandle = s.handle := if_neg h

end Sys2Proof.Machine
end

