-- ==== Sys2Proof/Laws/Steps.lean ====
section
/-! SUPPORT. What a bus-engine step, the interlude before a core step and the core's steps can do (spec/46_bus_engine.md R268,
spec/20_memory.md R80): the bus engine never touches the handle or a register the core owns, and with an empty schedule
nothing falls before a step. -/

namespace Sys2Proof.Machine

@[simp] theorem busDevice_mode (p : Params) (c : TxPick) (d : Device) (e : BusEvent) :
    (busDevice p c d e).mode = d.mode := by
  cases e <;>
    simp only [busDevice, rxArrive, rxReassert, txComplete, txWithdraw, busError, arbLost, errState, otherFlag,
      Device.raiseInt, Device.raiseIntIf, Device.setSlot] <;> repeat' (first | rfl | split)

@[simp] theorem busDevice_intMask (p : Params) (c : TxPick) (d : Device) (e : BusEvent) :
    (busDevice p c d e).intMask = d.intMask := by
  cases e <;>
    simp only [busDevice, rxArrive, rxReassert, txComplete, txWithdraw, busError, arbLost, errState, otherFlag,
      Device.raiseInt, Device.raiseIntIf, Device.setSlot] <;> repeat' (first | rfl | split)

@[simp] theorem busDevice_idcode (p : Params) (c : TxPick) (d : Device) (e : BusEvent) :
    (busDevice p c d e).idcode = d.idcode := by
  cases e <;>
    simp only [busDevice, rxArrive, rxReassert, txComplete, txWithdraw, busError, arbLost, errState, otherFlag,
      Device.raiseInt, Device.raiseIntIf, Device.setSlot] <;> repeat' (first | rfl | split)

@[simp] theorem busDevice_idmask (p : Params) (c : TxPick) (d : Device) (e : BusEvent) :
    (busDevice p c d e).idmask = d.idmask := by
  cases e <;>
    simp only [busDevice, rxArrive, rxReassert, txComplete, txWithdraw, busError, arbLost, errState, otherFlag,
      Device.raiseInt, Device.raiseIntIf, Device.setSlot] <;> repeat' (first | rfl | split)

@[simp] theorem busDevice_nbtp (p : Params) (c : TxPick) (d : Device) (e : BusEvent) :
    (busDevice p c d e).nbtp = d.nbtp := by
  cases e <;>
    simp only [busDevice, rxArrive, rxReassert, txComplete, txWithdraw, busError, arbLost, errState, otherFlag,
      Device.raiseInt, Device.raiseIntIf, Device.setSlot] <;> repeat' (first | rfl | split)

@[simp] theorem busDevice_dbtp (p : Params) (c : TxPick) (d : Device) (e : BusEvent) :
    (busDevice p c d e).dbtp = d.dbtp := by
  cases e <;>
    simp only [busDevice, rxArrive, rxReassert, txComplete, txWithdraw, busError, arbLost, errState, otherFlag,
      Device.raiseInt, Device.raiseIntIf, Device.setSlot] <;> repeat' (first | rfl | split)

@[simp] theorem busDevice_tdcEn (p : Params) (c : TxPick) (d : Device) (e : BusEvent) :
    (busDevice p c d e).tdcEn = d.tdcEn := by
  cases e <;>
    simp only [busDevice, rxArrive, rxReassert, txComplete, txWithdraw, busError, arbLost, errState, otherFlag,
      Device.raiseInt, Device.raiseIntIf, Device.setSlot] <;> repeat' (first | rfl | split)

@[simp] theorem busDevice_tdco (p : Params) (c : TxPick) (d : Device) (e : BusEvent) :
    (busDevice p c d e).tdco = d.tdco := by
  cases e <;>
    simp only [busDevice, rxArrive, rxReassert, txComplete, txWithdraw, busError, arbLost, errState, otherFlag,
      Device.raiseInt, Device.raiseIntIf, Device.setSlot] <;> repeat' (first | rfl | split)

@[simp] theorem busDevice_rxfifoEn (p : Params) (c : TxPick) (d : Device) (e : BusEvent) :
    (busDevice p c d e).rxfifoEn = d.rxfifoEn := by
  cases e <;>
    simp only [busDevice, rxArrive, rxReassert, txComplete, txWithdraw, busError, arbLost, errState, otherFlag,
      Device.raiseInt, Device.raiseIntIf, Device.setSlot] <;> repeat' (first | rfl | split)

@[simp] theorem busDevice_fdtxEn (p : Params) (c : TxPick) (d : Device) (e : BusEvent) :
    (busDevice p c d e).fdtxEn = d.fdtxEn := by
  cases e <;>
    simp only [busDevice, rxArrive, rxReassert, txComplete, txWithdraw, busError, arbLost, errState, otherFlag,
      Device.raiseInt, Device.raiseIntIf, Device.setSlot] <;> repeat' (first | rfl | split)

@[simp] theorem busDevice_txfic (p : Params) (c : TxPick) (d : Device) (e : BusEvent) :
    (busDevice p c d e).txfic = d.txfic := by
  cases e <;>
    simp only [busDevice, rxArrive, rxReassert, txComplete, txWithdraw, busError, arbLost, errState, otherFlag,
      Device.raiseInt, Device.raiseIntIf, Device.setSlot] <;> repeat' (first | rfl | split)

@[simp] theorem busDevice_txid (p : Params) (c : TxPick) (d : Device) (e : BusEvent) :
    (busDevice p c d e).txid = d.txid := by
  cases e <;>
    simp only [busDevice, rxArrive, rxReassert, txComplete, txWithdraw, busError, arbLost, errState, otherFlag,
      Device.raiseInt, Device.raiseIntIf, Device.setSlot] <;> repeat' (first | rfl | split)

@[simp] theorem busDevice_txdat (p : Params) (c : TxPick) (d : Device) (e : BusEvent) :
    (busDevice p c d e).txdat = d.txdat := by
  cases e <;>
    simp only [busDevice, rxArrive, rxReassert, txComplete, txWithdraw, busError, arbLost, errState, otherFlag,
      Device.raiseInt, Device.raiseIntIf, Device.setSlot] <;> repeat' (first | rfl | split)

@[simp] theorem busDevice_req0 (p : Params) (c : TxPick) (d : Device) (e : BusEvent) :
    (busDevice p c d e).req0 = d.req0 := by
  cases e <;>
    simp only [busDevice, rxArrive, rxReassert, txComplete, txWithdraw, busError, arbLost, errState, otherFlag,
      Device.raiseInt, Device.raiseIntIf, Device.setSlot] <;> repeat' (first | rfl | split)

@[simp] theorem busDevice_req1 (p : Params) (c : TxPick) (d : Device) (e : BusEvent) :
    (busDevice p c d e).req1 = d.req1 := by
  cases e <;>
    simp only [busDevice, rxArrive, rxReassert, txComplete, txWithdraw, busError, arbLost, errState, otherFlag,
      Device.raiseInt, Device.raiseIntIf, Device.setSlot] <;> repeat' (first | rfl | split)

@[simp] theorem busStep_params (s : State) (e : BusEvent) : (busStep s e).params = s.params := by
  unfold busStep; split <;> rfl

@[simp] theorem busStep_attached (s : State) (e : BusEvent) : (busStep s e).attached = s.attached := by
  unfold busStep; split <;> rfl

@[simp] theorem busStep_handle (s : State) (e : BusEvent) : (busStep s e).handle = s.handle := by
  unfold busStep; split <;> rfl

@[simp] theorem busStep_fault (s : State) (e : BusEvent) : (busStep s e).fault = s.fault := by
  unfold busStep; split <;> rfl

@[simp] theorem busStep_refused (s : State) (e : BusEvent) : (busStep s e).refused = s.refused := by
  unfold busStep; split <;> rfl

@[simp] theorem busStep_core (s : State) (e : BusEvent) : (busStep s e).core = s.core := by
  unfold busStep; split <;> rfl

@[simp] theorem busStep_result (s : State) (e : BusEvent) : (busStep s e).result = s.result := by
  unfold busStep; split <;> rfl

@[simp] theorem busStep_inbox (s : State) (e : BusEvent) : (busStep s e).inbox = s.inbox := by
  unfold busStep; split <;> rfl

@[simp] theorem busStep_answers (s : State) (e : BusEvent) : (busStep s e).answers = s.answers := by
  unfold busStep; split <;> rfl

@[simp] theorem busStep_supplied (s : State) (e : BusEvent) : (busStep s e).supplied = s.supplied := by
  unfold busStep; split <;> rfl

@[simp] theorem busStep_draws (s : State) (e : BusEvent) : (busStep s e).draws = s.draws := by
  unfold busStep; split <;> rfl

@[simp] theorem busStep_schedule (s : State) (e : BusEvent) : (busStep s e).schedule = s.schedule := by
  unfold busStep; split <;> rfl

/-- An enabled bus-engine step emits its events, changes the device and takes the choice it needs. -/
theorem busStep_of_enabled {s : State} {e : BusEvent} (h : busEnabled s.dev e = true) :
    busStep s e = { s.takePicks (picksNeeded s.dev e) with
      dev := busDevice s.params s.nextPick s.dev e, trace := s.trace ++ busTrace s.nextPick s.dev e } := by
  rw [busStep, if_pos h]; rfl

/-- One that is not enabled is not taken (log 13). -/
theorem busStep_of_disabled {s : State} {e : BusEvent} (h : busEnabled s.dev e = false) : busStep s e = s := by
  rw [busStep, if_neg (by simp [h])]

@[simp] theorem busStep_dev_mode (s : State) (e : BusEvent) : (busStep s e).dev.mode = s.dev.mode := by
  unfold busStep; split <;> simp

@[simp] theorem busStep_dev_intMask (s : State) (e : BusEvent) : (busStep s e).dev.intMask = s.dev.intMask := by
  unfold busStep; split <;> simp

@[simp] theorem busStep_dev_idcode (s : State) (e : BusEvent) : (busStep s e).dev.idcode = s.dev.idcode := by
  unfold busStep; split <;> simp

@[simp] theorem busStep_dev_idmask (s : State) (e : BusEvent) : (busStep s e).dev.idmask = s.dev.idmask := by
  unfold busStep; split <;> simp

@[simp] theorem busStep_dev_nbtp (s : State) (e : BusEvent) : (busStep s e).dev.nbtp = s.dev.nbtp := by
  unfold busStep; split <;> simp

@[simp] theorem busStep_dev_dbtp (s : State) (e : BusEvent) : (busStep s e).dev.dbtp = s.dev.dbtp := by
  unfold busStep; split <;> simp

@[simp] theorem busStep_dev_tdcEn (s : State) (e : BusEvent) : (busStep s e).dev.tdcEn = s.dev.tdcEn := by
  unfold busStep; split <;> simp

@[simp] theorem busStep_dev_tdco (s : State) (e : BusEvent) : (busStep s e).dev.tdco = s.dev.tdco := by
  unfold busStep; split <;> simp

@[simp] theorem busStep_dev_rxfifoEn (s : State) (e : BusEvent) : (busStep s e).dev.rxfifoEn = s.dev.rxfifoEn := by
  unfold busStep; split <;> simp

@[simp] theorem busStep_dev_fdtxEn (s : State) (e : BusEvent) : (busStep s e).dev.fdtxEn = s.dev.fdtxEn := by
  unfold busStep; split <;> simp

@[simp] theorem busStep_dev_txfic (s : State) (e : BusEvent) : (busStep s e).dev.txfic = s.dev.txfic := by
  unfold busStep; split <;> simp

@[simp] theorem busStep_dev_txid (s : State) (e : BusEvent) : (busStep s e).dev.txid = s.dev.txid := by
  unfold busStep; split <;> simp

@[simp] theorem busStep_dev_txdat (s : State) (e : BusEvent) : (busStep s e).dev.txdat = s.dev.txdat := by
  unfold busStep; split <;> simp

@[simp] theorem busStep_dev_req0 (s : State) (e : BusEvent) : (busStep s e).dev.req0 = s.dev.req0 := by
  unfold busStep; split <;> simp

@[simp] theorem busStep_dev_req1 (s : State) (e : BusEvent) : (busStep s e).dev.req1 = s.dev.req1 := by
  unfold busStep; split <;> simp

/-- The coming draws depend only on the supplied words and the counter. -/
theorem fresh_congr {s t : State} (h : s.supplied = t.supplied) (h' : s.draws = t.draws) : s.fresh = t.fresh := by
  funext k; simp [State.fresh, h, h']

/-- A property that every bus-engine step keeps is kept by a list of them. -/
theorem foldl_busStep_keeps {P : State → Prop} (h : ∀ s e, P s → P (busStep s e)) (es : List BusEvent) (s : State)
    (hs : P s) : P (es.foldl busStep s) := by
  induction es generalizing s with
  | nil => exact hs
  | cons e es ih => exact ih _ (h s e hs)

/-- A property that bus-engine steps and taking the schedule's head keep is kept by the interlude. -/
theorem interlude_keeps {P : State → Prop} (h : ∀ s e, P s → P (busStep s e))
    (hq : ∀ s q, P s → P (s.setSchedule q)) (s : State) (hs : P s) : P (interlude s) := by
  unfold interlude
  split
  · exact hs
  · exact foldl_busStep_keeps h _ _ (hq _ _ hs)

/-- With nothing scheduled, no bus-engine step falls before the coming core step. -/
theorem interlude_of_nil {s : State} (h : s.schedule = []) : interlude s = s := by
  unfold interlude; rw [h]

@[simp] theorem interlude_params (s : State) : (interlude s).params = s.params :=
  interlude_keeps (P := fun t => t.params = s.params) (fun _ _ h => by simpa using h) (fun _ _ h => h) s rfl

@[simp] theorem interlude_attached (s : State) : (interlude s).attached = s.attached :=
  interlude_keeps (P := fun t => t.attached = s.attached) (fun _ _ h => by simpa using h) (fun _ _ h => h) s rfl

@[simp] theorem interlude_handle (s : State) : (interlude s).handle = s.handle :=
  interlude_keeps (P := fun t => t.handle = s.handle) (fun _ _ h => by simpa using h) (fun _ _ h => h) s rfl

@[simp] theorem interlude_fault (s : State) : (interlude s).fault = s.fault :=
  interlude_keeps (P := fun t => t.fault = s.fault) (fun _ _ h => by simpa using h) (fun _ _ h => h) s rfl

@[simp] theorem interlude_refused (s : State) : (interlude s).refused = s.refused :=
  interlude_keeps (P := fun t => t.refused = s.refused) (fun _ _ h => by simpa using h) (fun _ _ h => h) s rfl

@[simp] theorem interlude_core (s : State) : (interlude s).core = s.core :=
  interlude_keeps (P := fun t => t.core = s.core) (fun _ _ h => by simpa using h) (fun _ _ h => h) s rfl

@[simp] theorem interlude_result (s : State) : (interlude s).result = s.result :=
  interlude_keeps (P := fun t => t.result = s.result) (fun _ _ h => by simpa using h) (fun _ _ h => h) s rfl

@[simp] theorem interlude_inbox (s : State) : (interlude s).inbox = s.inbox :=
  interlude_keeps (P := fun t => t.inbox = s.inbox) (fun _ _ h => by simpa using h) (fun _ _ h => h) s rfl

@[simp] theorem interlude_answers (s : State) : (interlude s).answers = s.answers :=
  interlude_keeps (P := fun t => t.answers = s.answers) (fun _ _ h => by simpa using h) (fun _ _ h => h) s rfl

@[simp] theorem interlude_supplied (s : State) : (interlude s).supplied = s.supplied :=
  interlude_keeps (P := fun t => t.supplied = s.supplied) (fun _ _ h => by simpa using h) (fun _ _ h => h) s rfl

@[simp] theorem interlude_draws (s : State) : (interlude s).draws = s.draws :=
  interlude_keeps (P := fun t => t.draws = s.draws) (fun _ _ h => by simpa using h) (fun _ _ h => h) s rfl

@[simp] theorem interlude_dev_mode (s : State) : (interlude s).dev.mode = s.dev.mode :=
  interlude_keeps (P := fun t => t.dev.mode = s.dev.mode) (fun _ _ h => by simpa using h) (fun _ _ h => h) s rfl

@[simp] theorem interlude_dev_intMask (s : State) : (interlude s).dev.intMask = s.dev.intMask :=
  interlude_keeps (P := fun t => t.dev.intMask = s.dev.intMask) (fun _ _ h => by simpa using h) (fun _ _ h => h) s rfl

@[simp] theorem interlude_dev_idcode (s : State) : (interlude s).dev.idcode = s.dev.idcode :=
  interlude_keeps (P := fun t => t.dev.idcode = s.dev.idcode) (fun _ _ h => by simpa using h) (fun _ _ h => h) s rfl

@[simp] theorem interlude_dev_idmask (s : State) : (interlude s).dev.idmask = s.dev.idmask :=
  interlude_keeps (P := fun t => t.dev.idmask = s.dev.idmask) (fun _ _ h => by simpa using h) (fun _ _ h => h) s rfl

@[simp] theorem interlude_dev_nbtp (s : State) : (interlude s).dev.nbtp = s.dev.nbtp :=
  interlude_keeps (P := fun t => t.dev.nbtp = s.dev.nbtp) (fun _ _ h => by simpa using h) (fun _ _ h => h) s rfl

@[simp] theorem interlude_dev_dbtp (s : State) : (interlude s).dev.dbtp = s.dev.dbtp :=
  interlude_keeps (P := fun t => t.dev.dbtp = s.dev.dbtp) (fun _ _ h => by simpa using h) (fun _ _ h => h) s rfl

@[simp] theorem interlude_dev_tdcEn (s : State) : (interlude s).dev.tdcEn = s.dev.tdcEn :=
  interlude_keeps (P := fun t => t.dev.tdcEn = s.dev.tdcEn) (fun _ _ h => by simpa using h) (fun _ _ h => h) s rfl

@[simp] theorem interlude_dev_tdco (s : State) : (interlude s).dev.tdco = s.dev.tdco :=
  interlude_keeps (P := fun t => t.dev.tdco = s.dev.tdco) (fun _ _ h => by simpa using h) (fun _ _ h => h) s rfl

@[simp] theorem interlude_dev_rxfifoEn (s : State) : (interlude s).dev.rxfifoEn = s.dev.rxfifoEn :=
  interlude_keeps (P := fun t => t.dev.rxfifoEn = s.dev.rxfifoEn) (fun _ _ h => by simpa using h) (fun _ _ h => h) s rfl

@[simp] theorem interlude_dev_fdtxEn (s : State) : (interlude s).dev.fdtxEn = s.dev.fdtxEn :=
  interlude_keeps (P := fun t => t.dev.fdtxEn = s.dev.fdtxEn) (fun _ _ h => by simpa using h) (fun _ _ h => h) s rfl

@[simp] theorem interlude_dev_txfic (s : State) : (interlude s).dev.txfic = s.dev.txfic :=
  interlude_keeps (P := fun t => t.dev.txfic = s.dev.txfic) (fun _ _ h => by simpa using h) (fun _ _ h => h) s rfl

@[simp] theorem interlude_dev_txid (s : State) : (interlude s).dev.txid = s.dev.txid :=
  interlude_keeps (P := fun t => t.dev.txid = s.dev.txid) (fun _ _ h => by simpa using h) (fun _ _ h => h) s rfl

@[simp] theorem interlude_dev_txdat (s : State) : (interlude s).dev.txdat = s.dev.txdat :=
  interlude_keeps (P := fun t => t.dev.txdat = s.dev.txdat) (fun _ _ h => by simpa using h) (fun _ _ h => h) s rfl

@[simp] theorem interlude_dev_req0 (s : State) : (interlude s).dev.req0 = s.dev.req0 :=
  interlude_keeps (P := fun t => t.dev.req0 = s.dev.req0) (fun _ _ h => by simpa using h) (fun _ _ h => h) s rfl

@[simp] theorem interlude_dev_req1 (s : State) : (interlude s).dev.req1 = s.dev.req1 :=
  interlude_keeps (P := fun t => t.dev.req1 = s.dev.req1) (fun _ _ h => by simpa using h) (fun _ _ h => h) s rfl

@[simp] theorem interlude_fresh (s : State) : (interlude s).fresh = s.fresh := fresh_congr (by simp) (by simp)

@[simp] theorem interlude_schedule (s : State) : (interlude s).schedule = s.schedule.tail := by
  unfold interlude
  split
  · next h => rw [h]; rfl
  · next es rest h =>
    rw [h]
    exact foldl_busStep_keeps (P := fun t => t.schedule = rest) (fun _ _ h => by simpa using h) es _ rfl

/-- What a bus-engine step neither reads nor writes can be changed before the interlude or after it. -/
theorem interlude_comm {g : State → State} (hg : ∀ s e, busStep (g s) e = g (busStep s e))
    (hq : ∀ s q, (g s).setSchedule q = g (s.setSchedule q)) (hs : ∀ s, (g s).schedule = s.schedule) (s : State) :
    interlude (g s) = g (interlude s) := by
  have key : ∀ (es : List BusEvent) (u : State), es.foldl busStep (g u) = g (es.foldl busStep u) := by
    intro es
    induction es with
    | nil => intro u; rfl
    | cons e es ih => intro u; rw [List.foldl_cons, hg, ih, List.foldl_cons]
  unfold interlude
  rw [hs]
  split
  · rfl
  · rw [hq, key]

@[simp] theorem interlude_updHandle (f : Handle → Handle) (s : State) : interlude (s.updHandle f) = (interlude s).updHandle f :=
  interlude_comm (g := State.updHandle f)
    (fun u e => by
      cases h : busEnabled u.dev e
      · rw [busStep_of_disabled (s := u.updHandle f) h, busStep_of_disabled h]
      · rw [busStep_of_enabled (s := u.updHandle f) h, busStep_of_enabled h]; rfl)
    (fun _ _ => rfl) (fun _ => rfl) s

@[simp] theorem interlude_updStats (f : Stats → Stats) (s : State) : interlude (s.updStats f) = (interlude s).updStats f :=
  interlude_comm (g := State.updStats f)
    (fun u e => by
      cases h : busEnabled u.dev e
      · rw [busStep_of_disabled (s := u.updStats f) h, busStep_of_disabled h]
      · rw [busStep_of_enabled (s := u.updStats f) h, busStep_of_enabled h]; rfl)
    (fun _ _ => rfl) (fun _ => rfl) s

@[simp] theorem interlude_setCore (c : CoreControl) (s : State) : interlude (s.setCore c) = (interlude s).setCore c :=
  interlude_comm (g := State.setCore c)
    (fun u e => by
      cases h : busEnabled u.dev e
      · rw [busStep_of_disabled (s := u.setCore c) h, busStep_of_disabled h]
      · rw [busStep_of_enabled (s := u.setCore c) h, busStep_of_enabled h]; rfl)
    (fun _ _ => rfl) (fun _ => rfl) s

@[simp] theorem interlude_setResult (r : Result) (s : State) : interlude (s.setResult r) = (interlude s).setResult r :=
  interlude_comm (g := State.setResult r)
    (fun u e => by
      cases h : busEnabled u.dev e
      · rw [busStep_of_disabled (s := u.setResult r) h, busStep_of_disabled h]
      · rw [busStep_of_enabled (s := u.setResult r) h, busStep_of_enabled h]; rfl)
    (fun _ _ => rfl) (fun _ => rfl) s

@[simp] theorem interlude_setAnswers (a : Answers) (s : State) : interlude (s.setAnswers a) = (interlude s).setAnswers a :=
  interlude_comm (g := State.setAnswers a)
    (fun u e => by
      cases h : busEnabled u.dev e
      · rw [busStep_of_disabled (s := u.setAnswers a) h, busStep_of_disabled h]
      · rw [busStep_of_enabled (s := u.setAnswers a) h, busStep_of_enabled h]; rfl)
    (fun _ _ => rfl) (fun _ => rfl) s

@[simp] theorem interlude_addDraws (k : Nat) (s : State) : interlude (s.addDraws k) = (interlude s).addDraws k :=
  interlude_comm (g := State.addDraws k)
    (fun u e => by
      cases h : busEnabled u.dev e
      · rw [busStep_of_disabled (s := u.addDraws k) h, busStep_of_disabled h]
      · rw [busStep_of_enabled (s := u.addDraws k) h, busStep_of_enabled h]; rfl)
    (fun _ _ => rfl) (fun _ => rfl) s

@[simp] theorem interlude_takeWords (k : Nat) (s : State) : interlude (s.takeWords k) = (interlude s).takeWords k :=
  interlude_comm (g := State.takeWords k)
    (fun u e => by
      cases h : busEnabled u.dev e
      · rw [busStep_of_disabled (s := u.takeWords k) h, busStep_of_disabled h]
      · rw [busStep_of_enabled (s := u.takeWords k) h, busStep_of_enabled h]; rfl)
    (fun _ _ => rfl) (fun _ => rfl) s

@[simp] theorem interlude_setAttached (a : Attachment) (s : State) : interlude (s.setAttached a) = (interlude s).setAttached a :=
  interlude_comm (g := State.setAttached a)
    (fun u e => by
      cases h : busEnabled u.dev e
      · rw [busStep_of_disabled (s := u.setAttached a) h, busStep_of_disabled h]
      · rw [busStep_of_enabled (s := u.setAttached a) h, busStep_of_enabled h]; rfl)
    (fun _ _ => rfl) (fun _ => rfl) s

@[simp] theorem coreStep_params (s : State) : (coreStep s).params = s.params := by simp [coreStep]

@[simp] theorem coreStep_attached (s : State) : (coreStep s).attached = s.attached := by simp [coreStep]

@[simp] theorem coreStep_handle (s : State) : (coreStep s).handle = s.handle := by simp [coreStep]

@[simp] theorem coreStep_fault (s : State) : (coreStep s).fault = s.fault := by simp [coreStep]

@[simp] theorem coreStep_refused (s : State) : (coreStep s).refused = s.refused := by simp [coreStep]

@[simp] theorem coreStep_result (s : State) : (coreStep s).result = s.result := by simp [coreStep]

@[simp] theorem coreStep_inbox (s : State) : (coreStep s).inbox = s.inbox := by simp [coreStep]

@[simp] theorem coreStep_answers (s : State) : (coreStep s).answers = s.answers := by simp [coreStep]

@[simp] theorem coreStep_supplied (s : State) : (coreStep s).supplied = s.supplied := by simp [coreStep]

@[simp] theorem coreStep_draws (s : State) : (coreStep s).draws = s.draws := by simp [coreStep]

@[simp] theorem coreStep_fresh (s : State) : (coreStep s).fresh = s.fresh := fresh_congr (by simp) (by simp)

@[simp] theorem emitAll_fresh (es : List Event) (s : State) : (s.emitAll es).fresh = s.fresh := rfl

@[simp] theorem coreStep_core (s : State) : (coreStep s).core = s.core.advance := by simp [coreStep]

@[simp] theorem coreStep_schedule (s : State) : (coreStep s).schedule = s.schedule.tail := by simp [coreStep]

@[simp] theorem coreStep_trace (s : State) : (coreStep s).trace = (interlude s).trace := by simp [coreStep]

@[simp] theorem coreStep_dev (s : State) : (coreStep s).dev = (interlude s).dev := by simp [coreStep]

@[simp] theorem rd_params (r : Reg) (s : State) : ((rd r s).2).params = s.params := by
  simp [rd, accessRead, readReg]

@[simp] theorem rd_attached (r : Reg) (s : State) : ((rd r s).2).attached = s.attached := by
  simp [rd, accessRead, readReg]

@[simp] theorem rd_handle (r : Reg) (s : State) : ((rd r s).2).handle = s.handle := by
  simp [rd, accessRead, readReg]

@[simp] theorem rd_fault (r : Reg) (s : State) : ((rd r s).2).fault = s.fault := by
  simp [rd, accessRead, readReg]

@[simp] theorem rd_refused (r : Reg) (s : State) : ((rd r s).2).refused = s.refused := by
  simp [rd, accessRead, readReg]

@[simp] theorem rd_core (r : Reg) (s : State) : ((rd r s).2).core = s.core.advance := by
  simp [rd, accessRead, readReg]

@[simp] theorem rd_result (r : Reg) (s : State) : ((rd r s).2).result = s.result := by
  simp [rd, accessRead, readReg]

@[simp] theorem rd_inbox (r : Reg) (s : State) : ((rd r s).2).inbox = s.inbox := by
  simp [rd, accessRead, readReg]

@[simp] theorem rd_answers (r : Reg) (s : State) : ((rd r s).2).answers = s.answers := by
  simp [rd, accessRead, readReg]

@[simp] theorem rd_supplied (r : Reg) (s : State) : ((rd r s).2).supplied = s.supplied.drop 1 := by
  simp [rd, accessRead, readReg]

@[simp] theorem rd_draws (r : Reg) (s : State) : ((rd r s).2).draws = s.draws + 1 := by
  simp [rd, accessRead, readReg]

@[simp] theorem rd_dev (r : Reg) (s : State) : (rd r s).2.dev = regAfterRead r (interlude s).dev := by
  simp [rd, accessRead, readReg]

@[simp] theorem rd_schedule (r : Reg) (s : State) : (rd r s).2.schedule = s.schedule.tail := by
  simp [rd, accessRead, readReg]

/-- The value of a read: what the device answers after the bus-engine steps before it, with the next drawn word. -/
theorem rd_value (r : Reg) (s : State) :
    (rd r s).1 = regValue r s.params (interlude s).dev (s.fresh 0) := by
  simp [rd, accessRead, readReg]

/-- A read appends its access event. -/
theorem rd_trace (r : Reg) (s : State) :
    (rd r s).2.trace = (interlude s).trace ++ [.access .read (s.params.off r) (rd r s).1] := by
  simp [rd, accessRead, readReg]

@[simp] theorem wr_params (r : Reg) (v : Word) (s : State) : (wr r v s).params = s.params := by
  simp [wr, accessWrite, writeReg]

@[simp] theorem wr_attached (r : Reg) (v : Word) (s : State) : (wr r v s).attached = s.attached := by
  simp [wr, accessWrite, writeReg]

@[simp] theorem wr_handle (r : Reg) (v : Word) (s : State) : (wr r v s).handle = s.handle := by
  simp [wr, accessWrite, writeReg]

@[simp] theorem wr_fault (r : Reg) (v : Word) (s : State) : (wr r v s).fault = s.fault := by
  simp [wr, accessWrite, writeReg]

@[simp] theorem wr_refused (r : Reg) (v : Word) (s : State) : (wr r v s).refused = s.refused := by
  simp [wr, accessWrite, writeReg]

@[simp] theorem wr_core (r : Reg) (v : Word) (s : State) : (wr r v s).core = s.core.advance := by
  simp [wr, accessWrite, writeReg]

@[simp] theorem wr_result (r : Reg) (v : Word) (s : State) : (wr r v s).result = s.result := by
  simp [wr, accessWrite, writeReg]

@[simp] theorem wr_inbox (r : Reg) (v : Word) (s : State) : (wr r v s).inbox = s.inbox := by
  simp [wr, accessWrite, writeReg]

@[simp] theorem wr_answers (r : Reg) (v : Word) (s : State) : (wr r v s).answers = s.answers := by
  simp [wr, accessWrite, writeReg]

@[simp] theorem wr_supplied (r : Reg) (v : Word) (s : State) : (wr r v s).supplied = s.supplied := by
  simp [wr, accessWrite, writeReg]

@[simp] theorem wr_draws (r : Reg) (v : Word) (s : State) : (wr r v s).draws = s.draws := by
  simp [wr, accessWrite, writeReg]

@[simp] theorem wr_dev (r : Reg) (v : Word) (s : State) : (wr r v s).dev = regWrite r v s.params (interlude s).dev := by
  simp [wr, accessWrite, writeReg]

@[simp] theorem wr_schedule (r : Reg) (v : Word) (s : State) : (wr r v s).schedule = s.schedule.tail := by
  simp [wr, accessWrite, writeReg]

/-- A write appends its access event. -/
theorem wr_trace (r : Reg) (v : Word) (s : State) :
    (wr r v s).trace = (interlude s).trace ++ [.access .write (s.params.off r) v] := by
  simp [wr, accessWrite, writeReg]

@[simp] theorem emitStep_params (e : Event) (s : State) : (emitStep e s).params = s.params := by
  simp [emitStep]

@[simp] theorem emitStep_attached (e : Event) (s : State) : (emitStep e s).attached = s.attached := by
  simp [emitStep]

@[simp] theorem emitStep_handle (e : Event) (s : State) : (emitStep e s).handle = s.handle := by
  simp [emitStep]

@[simp] theorem emitStep_fault (e : Event) (s : State) : (emitStep e s).fault = s.fault := by
  simp [emitStep]

@[simp] theorem emitStep_refused (e : Event) (s : State) : (emitStep e s).refused = s.refused := by
  simp [emitStep]

@[simp] theorem emitStep_core (e : Event) (s : State) : (emitStep e s).core = s.core.advance := by
  simp [emitStep]

@[simp] theorem emitStep_result (e : Event) (s : State) : (emitStep e s).result = s.result := by
  simp [emitStep]

@[simp] theorem emitStep_inbox (e : Event) (s : State) : (emitStep e s).inbox = s.inbox := by
  simp [emitStep]

@[simp] theorem emitStep_answers (e : Event) (s : State) : (emitStep e s).answers = s.answers := by
  simp [emitStep]

@[simp] theorem emitStep_supplied (e : Event) (s : State) : (emitStep e s).supplied = s.supplied := by
  simp [emitStep]

@[simp] theorem emitStep_draws (e : Event) (s : State) : (emitStep e s).draws = s.draws := by
  simp [emitStep]

@[simp] theorem emitStep_dev (e : Event) (s : State) : (emitStep e s).dev = (interlude s).dev := by simp [emitStep]

@[simp] theorem emitStep_schedule (e : Event) (s : State) : (emitStep e s).schedule = s.schedule.tail := by simp [emitStep]

@[simp] theorem emitStep_trace (e : Event) (s : State) : (emitStep e s).trace = (interlude s).trace ++ [e] := by
  simp [emitStep]

@[simp] theorem pulseStep_params (s : State) : (pulseStep s).params = s.params := by
  simp [pulseStep, resetPulse]

@[simp] theorem pulseStep_attached (s : State) : (pulseStep s).attached = s.attached := by
  simp [pulseStep, resetPulse]

@[simp] theorem pulseStep_handle (s : State) : (pulseStep s).handle = s.handle := by
  simp [pulseStep, resetPulse]

@[simp] theorem pulseStep_fault (s : State) : (pulseStep s).fault = s.fault := by
  simp [pulseStep, resetPulse]

@[simp] theorem pulseStep_refused (s : State) : (pulseStep s).refused = s.refused := by
  simp [pulseStep, resetPulse]

@[simp] theorem pulseStep_core (s : State) : (pulseStep s).core = s.core.advance := by
  simp [pulseStep, resetPulse]

@[simp] theorem pulseStep_result (s : State) : (pulseStep s).result = s.result := by
  simp [pulseStep, resetPulse]

@[simp] theorem pulseStep_inbox (s : State) : (pulseStep s).inbox = s.inbox := by
  simp [pulseStep, resetPulse]

@[simp] theorem pulseStep_answers (s : State) : (pulseStep s).answers = s.answers := by
  simp [pulseStep, resetPulse]

@[simp] theorem pulseStep_supplied (s : State) : (pulseStep s).supplied = s.supplied.drop pulseDraws := by
  simp [pulseStep, resetPulse]

@[simp] theorem pulseStep_draws (s : State) : (pulseStep s).draws = s.draws + pulseDraws := by
  simp [pulseStep, resetPulse]

@[simp] theorem pulseStep_dev (s : State) :
    (pulseStep s).dev = pulseDevice s.params s.fresh := by
  simp [pulseStep, resetPulse]

@[simp] theorem pulseStep_schedule (s : State) : (pulseStep s).schedule = s.schedule.tail := by
  simp [pulseStep, resetPulse]

@[simp] theorem pulseStep_trace (s : State) :
    (pulseStep s).trace = (interlude s).trace ++ [.assertReset, .deassertReset] := by
  simp [pulseStep, resetPulse]

@[simp] theorem acquireStep_params (s : State) : (acquireStep s).params = s.params := by
  simp [acquireStep]

@[simp] theorem acquireStep_attached (s : State) : (acquireStep s).attached = s.attached := by
  simp [acquireStep]

@[simp] theorem acquireStep_handle (s : State) : (acquireStep s).handle = s.handle := by
  simp [acquireStep]

@[simp] theorem acquireStep_fault (s : State) : (acquireStep s).fault = s.fault := by
  simp [acquireStep]

@[simp] theorem acquireStep_refused (s : State) : (acquireStep s).refused = s.refused := by
  simp [acquireStep]

@[simp] theorem acquireStep_core (s : State) : (acquireStep s).core = s.core.advance := by
  simp [acquireStep]

@[simp] theorem acquireStep_result (s : State) : (acquireStep s).result = s.result := by
  simp [acquireStep]

@[simp] theorem acquireStep_inbox (s : State) : (acquireStep s).inbox = s.inbox := by
  simp [acquireStep]

@[simp] theorem acquireStep_answers (s : State) : (acquireStep s).answers = { s.answers with acquire := s.answers.acquire.tail } := by
  simp [acquireStep]

@[simp] theorem acquireStep_supplied (s : State) : (acquireStep s).supplied = s.supplied := by
  simp [acquireStep]

@[simp] theorem acquireStep_draws (s : State) : (acquireStep s).draws = s.draws + 1 := by
  simp [acquireStep]

@[simp] theorem nextAcquire_coreStep (s : State) : nextAcquire (coreStep s) = nextAcquire s := by simp [nextAcquire]

@[simp] theorem acquireStep_dev (s : State) : (acquireStep s).dev = (interlude s).dev := by simp [acquireStep]

@[simp] theorem acquireStep_schedule (s : State) : (acquireStep s).schedule = s.schedule.tail := by simp [acquireStep]

@[simp] theorem acquireStep_trace (s : State) : (acquireStep s).trace = (interlude s).trace ++ [.acquire (nextAcquire s)] := by
  simp [acquireStep]

@[simp] theorem allocStep_params (s : State) : (allocStep s).params = s.params := by
  simp [allocStep]

@[simp] theorem allocStep_attached (s : State) : (allocStep s).attached = s.attached := by
  simp [allocStep]

@[simp] theorem allocStep_handle (s : State) : (allocStep s).handle = s.handle := by
  simp [allocStep]

@[simp] theorem allocStep_fault (s : State) : (allocStep s).fault = s.fault := by
  simp [allocStep]

@[simp] theorem allocStep_refused (s : State) : (allocStep s).refused = s.refused := by
  simp [allocStep]

@[simp] theorem allocStep_core (s : State) : (allocStep s).core = s.core.advance := by
  simp [allocStep]

@[simp] theorem allocStep_result (s : State) : (allocStep s).result = s.result := by
  simp [allocStep]

@[simp] theorem allocStep_inbox (s : State) : (allocStep s).inbox = s.inbox := by
  simp [allocStep]

@[simp] theorem allocStep_answers (s : State) : (allocStep s).answers = { s.answers with alloc := s.answers.alloc.tail } := by
  simp [allocStep]

@[simp] theorem allocStep_supplied (s : State) : (allocStep s).supplied = s.supplied := by
  simp [allocStep]

@[simp] theorem allocStep_draws (s : State) : (allocStep s).draws = s.draws + 1 := by
  simp [allocStep]

@[simp] theorem nextAlloc_coreStep (s : State) : nextAlloc (coreStep s) = nextAlloc s := by simp [nextAlloc]

@[simp] theorem allocStep_dev (s : State) : (allocStep s).dev = (interlude s).dev := by simp [allocStep]

@[simp] theorem allocStep_schedule (s : State) : (allocStep s).schedule = s.schedule.tail := by simp [allocStep]

@[simp] theorem allocStep_trace (s : State) : (allocStep s).trace = (interlude s).trace ++ [.alloc (nextAlloc s)] := by
  simp [allocStep]

end Sys2Proof.Machine
end

