-- ==== Sys2Proof/Laws/Access.lean ====
section
/-! SUPPORT. What a register access as an instruction does, once for all registers: `exec` of the read or write of `r` is the
shared access, so a statement about it needs only the value the device answers (spec/20_memory.md R76, R77). -/

namespace Sys2Proof.Machine

/-- Every read arm is the shared read of its register. -/
theorem exec_readInstr (r : Reg) (s : State) : exec (readInstr r) s = directRead r s := by
  cases r
  case idcode k => fin_cases k <;> rfl
  case idmask k => fin_cases k <;> rfl
  case txdat k => fin_cases k <;> rfl
  all_goals rfl

/-- Every write arm is the shared write of its register. -/
theorem exec_writeInstr (r : Reg) (v : Word) (s : State) : exec (writeInstr r v) s = directWrite r v s := by
  cases r
  case idcode k => fin_cases k <;> rfl
  case idmask k => fin_cases k <;> rfl
  case txdat k => fin_cases k <;> rfl
  all_goals rfl

/-- Only a read of RXPORT has a side effect (20 R76). -/
theorem regAfterRead_of_not_rxport {r : Reg} (h : r.isRxport = false) (d : Device) : regAfterRead r d = d := by
  cases r <;> first | rfl | cases h

/-- What a read answers: the value, the trace, the draw; the device is as after the read. -/
theorem directRead_eq (r : Reg) (s : State) :
    directRead r s = .next { s with
      dev := regAfterRead r s.dev
      result := .word (regValue r s.params s.dev (s.fresh 0))
      trace := s.trace ++ [.access .read (s.params.off r) (regValue r s.params s.dev (s.fresh 0))]
      supplied := s.supplied.drop 1
      draws := s.draws + 1 } := rfl

/-- What a write answers: the device after it and the trace. -/
theorem directWrite_eq (r : Reg) (v : Word) (s : State) :
    directWrite r v s = .next { s with
      dev := regWrite r v s.params s.dev
      result := .written
      trace := s.trace ++ [.access .write (s.params.off r) v] } := rfl

/-- A read answers the value the device gives. -/
theorem readsAs_of {r : Reg} {s : State} {v : Word} (hr : regAfterRead r s.dev = s.dev)
    (h : regValue r s.params s.dev (s.fresh 0) = v) : ReadsAs r s v :=
  ⟨_, (exec_readInstr r s).trans (directRead_eq r s), by rw [h], hr⟩

/-- A read answers given bits where the device's value has them, and the draw elsewhere. -/
theorem readsBits_of {r : Reg} {s : State} {bits : List (Nat × Bool)} (hr : r.isRxport = false)
    (h : ∀ b ∈ bits, (regValue r s.params s.dev (s.fresh 0)).getLsbD b.1 = b.2)
    (h' : ∀ i, i < 32 → (∀ b ∈ bits, b.1 ≠ i) →
      (regValue r s.params s.dev (s.fresh 0)).getLsbD i = (s.fresh 0).getLsbD i) : ReadsBits r s bits :=
  ⟨_, (exec_readInstr r s).trans (directRead_eq r s), regAfterRead_of_not_rxport hr s.dev, _, rfl, h, h'⟩

/-- A read whose value is a masked word and a draw answers the word's bits where the mask is set. -/
theorem readsBits_of_withRsv {r : Reg} {s : State} {m w : Word} {bits : List (Nat × Bool)} (hr : r.isRxport = false)
    (h : regValue r s.params s.dev (s.fresh 0) = withRsv m w (s.fresh 0))
    (hb : ∀ b ∈ bits, m.getLsbD b.1 = true ∧ b.2 = w.getLsbD b.1)
    (hm : ∀ i, i < 32 → m.getLsbD i = true → ∃ b ∈ bits, b.1 = i) : ReadsBits r s bits := by
  refine readsBits_of hr (fun b hb' => ?_) (fun i hi hn => ?_)
  · rw [h, withRsv_getLsbD, if_pos (hb b hb').1, (hb b hb').2]
  · rw [h, withRsv_getLsbD, if_neg]
    intro hmi
    obtain ⟨b, hb', rfl⟩ := hm i hi hmi
    exact hn b hb' rfl

/-- The bits of a field, with their positions. -/
theorem mem_bitsFrom {w : Word} {lo n : Nat} {b : Nat × Bool} :
    b ∈ bitsFrom w lo n ↔ ∃ k, k < n ∧ b = (lo + k, w.getLsbD (lo + k)) := by
  simp [bitsFrom, eq_comm]

/-- A write leaves the device the register's rule gives. -/
theorem writesTo_of {r : Reg} {v : Word} {s : State} {d : Device} (h : regWrite r v s.params s.dev = d) :
    WritesTo r v s d :=
  ⟨_, (exec_writeInstr r v s).trans (directWrite_eq r v s), rfl, h⟩

end Sys2Proof.Machine
end

