-- ==== Sys2Proof/Laws/PerInstr.lean ====
section
/-! SUPPORT. Per instruction: its descriptor is a legal one (spec/30_encoding.md R90, R92). -/

namespace Sys2Proof.Laws.Descriptor

/-- Under every admissible assignment the instruction's descriptor has Z = 00; in CLASS 00 and 01 its OFF is a multiple of 4
that names a register, and in CLASS 10 and 11 its Z2 is 0000 (30 R90, R92). -/
def Statement (i : Instr) : Prop :=
  ∀ p : Params, p.Admissible →
    descZ (descriptor p i) = 0#2
      ∧ (descClass (descriptor p i) = 0#2 ∨ descClass (descriptor p i) = 1#2 →
          descOff (descriptor p i) % 4 = 0 ∧ ∃ r, p.off r = descOff (descriptor p i))
      ∧ (descClass (descriptor p i) = 2#2 ∨ descClass (descriptor p i) = 3#2 → descZ2 (descriptor p i) = 0#4)

/-- CLASS, Z and OFF of a descriptor given as a number. -/
theorem fields_of_nat (c n : Nat) (hn : n < 4096) :
    descZ (BitVec.ofNat 16 (c * 16384 + n)) = 0#2 ∧ descClass (BitVec.ofNat 16 (c * 16384 + n)) = BitVec.ofNat 2 c
      ∧ descOff (BitVec.ofNat 16 (c * 16384 + n)) = n := by
  refine ⟨?_, ?_, ?_⟩
  · apply BitVec.eq_of_toNat_eq
    simp only [descZ, BitVec.extractLsb'_toNat, BitVec.toNat_ofNat, Nat.shiftRight_eq_div_pow]
    omega
  · apply BitVec.eq_of_toNat_eq
    simp only [descClass, BitVec.extractLsb'_toNat, BitVec.toNat_ofNat, Nat.shiftRight_eq_div_pow]
    omega
  · simp only [descOff, BitVec.extractLsb'_toNat, BitVec.toNat_ofNat, Nat.shiftRight_eq_div_pow]
    omega

/-- The descriptor of a read has CLASS 00, Z 00 and the register's offset (30 R92). -/
theorem readDesc_fields {p : Params} (h : p.Admissible) (r : Reg) :
    descZ (readDesc p r) = 0#2 ∧ descClass (readDesc p r) = 0#2 ∧ descOff (readDesc p r) = p.off r := by
  have := fields_of_nat 0 (p.off r) (h.off r).2.1
  rwa [Nat.zero_mul, Nat.zero_add] at this

/-- The descriptor of a write has CLASS 01, Z 00 and the register's offset (30 R92). -/
theorem writeDesc_fields {p : Params} (h : p.Admissible) (r : Reg) :
    descZ (writeDesc p r) = 0#2 ∧ descClass (writeDesc p r) = 1#2 ∧ descOff (writeDesc p r) = p.off r :=
  fields_of_nat 1 (p.off r) (h.off r).2.1

theorem of_read {i : Instr} (r : Reg) (hi : ∀ p, descriptor p i = readDesc p r) : Statement i := by
  intro p h
  obtain ⟨hz, hc, ho⟩ := readDesc_fields h r
  rw [hi, hz, hc, ho]
  exact ⟨rfl, fun _ => ⟨(h.off r).1, r, rfl⟩, fun h => by simp at h⟩

theorem of_write {i : Instr} (r : Reg) (hi : ∀ p, descriptor p i = writeDesc p r) : Statement i := by
  intro p h
  obtain ⟨hz, hc, ho⟩ := writeDesc_fields h r
  rw [hi, hz, hc, ho]
  exact ⟨rfl, fun _ => ⟨(h.off r).1, r, rfl⟩, fun h => by simp at h⟩

theorem of_const {i : Instr} (d : BitVec 16) (hi : ∀ p, descriptor p i = d)
    (h : descZ d = 0#2 ∧ (descClass d = 2#2 ∨ descClass d = 3#2) ∧ descZ2 d = 0#4) : Statement i := by
  intro p _
  rw [hi]
  refine ⟨h.1, fun h' => ?_, fun _ => h.2.2⟩
  rcases h.2.1 with h1 | h1 <;> rw [h1] at h' <;> simp at h'

theorem rdMode : Statement .rdMode := of_read .mode fun _ => rfl
theorem wrMode (v : Word) : Statement (.wrMode v) := of_write .mode fun _ => rfl
theorem rdCmd : Statement .rdCmd := of_read .cmd fun _ => rfl
theorem wrCmd (v : Word) : Statement (.wrCmd v) := of_write .cmd fun _ => rfl
theorem rdState : Statement .rdState := of_read .state fun _ => rfl
theorem wrState (v : Word) : Statement (.wrState v) := of_write .state fun _ => rfl
theorem rdInt : Statement .rdInt := of_read .int fun _ => rfl
theorem wrInt (v : Word) : Statement (.wrInt v) := of_write .int fun _ => rfl
theorem rdIntMask : Statement .rdIntMask := of_read .intMask fun _ => rfl
theorem wrIntMask (v : Word) : Statement (.wrIntMask v) := of_write .intMask fun _ => rfl
theorem rdLostarb : Statement .rdLostarb := of_read .lostarb fun _ => rfl
theorem wrLostarb (v : Word) : Statement (.wrLostarb v) := of_write .lostarb fun _ => rfl
theorem rdErrcode : Statement .rdErrcode := of_read .errcode fun _ => rfl
theorem wrErrcode (v : Word) : Statement (.wrErrcode v) := of_write .errcode fun _ => rfl
theorem rdRxerrcnt : Statement .rdRxerrcnt := of_read .rxerrcnt fun _ => rfl
theorem wrRxerrcnt (v : Word) : Statement (.wrRxerrcnt v) := of_write .rxerrcnt fun _ => rfl
theorem rdTxerrcnt : Statement .rdTxerrcnt := of_read .txerrcnt fun _ => rfl
theorem wrTxerrcnt (v : Word) : Statement (.wrTxerrcnt v) := of_write .txerrcnt fun _ => rfl
theorem rdNbtp : Statement .rdNbtp := of_read .nbtp fun _ => rfl
theorem wrNbtp (v : Word) : Statement (.wrNbtp v) := of_write .nbtp fun _ => rfl
theorem rdDbtp : Statement .rdDbtp := of_read .dbtp fun _ => rfl
theorem wrDbtp (v : Word) : Statement (.wrDbtp v) := of_write .dbtp fun _ => rfl
theorem rdTdcr : Statement .rdTdcr := of_read .tdcr fun _ => rfl
theorem wrTdcr (v : Word) : Statement (.wrTdcr v) := of_write .tdcr fun _ => rfl
theorem rdFdtxCtrl : Statement .rdFdtxCtrl := of_read .fdtxCtrl fun _ => rfl
theorem wrFdtxCtrl (v : Word) : Statement (.wrFdtxCtrl v) := of_write .fdtxCtrl fun _ => rfl
theorem rdRxfifoCtrl : Statement .rdRxfifoCtrl := of_read .rxfifoCtrl fun _ => rfl
theorem wrRxfifoCtrl (v : Word) : Statement (.wrRxfifoCtrl v) := of_write .rxfifoCtrl fun _ => rfl
theorem rdIdcode0 : Statement .rdIdcode0 := of_read (.idcode 0) fun _ => rfl
theorem wrIdcode0 (v : Word) : Statement (.wrIdcode0 v) := of_write (.idcode 0) fun _ => rfl
theorem rdIdmask0 : Statement .rdIdmask0 := of_read (.idmask 0) fun _ => rfl
theorem wrIdmask0 (v : Word) : Statement (.wrIdmask0 v) := of_write (.idmask 0) fun _ => rfl
theorem rdIdcode1 : Statement .rdIdcode1 := of_read (.idcode 1) fun _ => rfl
theorem wrIdcode1 (v : Word) : Statement (.wrIdcode1 v) := of_write (.idcode 1) fun _ => rfl
theorem rdIdmask1 : Statement .rdIdmask1 := of_read (.idmask 1) fun _ => rfl
theorem wrIdmask1 (v : Word) : Statement (.wrIdmask1 v) := of_write (.idmask 1) fun _ => rfl
theorem rdIdcode2 : Statement .rdIdcode2 := of_read (.idcode 2) fun _ => rfl
theorem wrIdcode2 (v : Word) : Statement (.wrIdcode2 v) := of_write (.idcode 2) fun _ => rfl
theorem rdIdmask2 : Statement .rdIdmask2 := of_read (.idmask 2) fun _ => rfl
theorem wrIdmask2 (v : Word) : Statement (.wrIdmask2 v) := of_write (.idmask 2) fun _ => rfl
theorem rdIdcode3 : Statement .rdIdcode3 := of_read (.idcode 3) fun _ => rfl
theorem wrIdcode3 (v : Word) : Statement (.wrIdcode3 v) := of_write (.idcode 3) fun _ => rfl
theorem rdIdmask3 : Statement .rdIdmask3 := of_read (.idmask 3) fun _ => rfl
theorem wrIdmask3 (v : Word) : Statement (.wrIdmask3 v) := of_write (.idmask 3) fun _ => rfl
theorem rdIdcode4 : Statement .rdIdcode4 := of_read (.idcode 4) fun _ => rfl
theorem wrIdcode4 (v : Word) : Statement (.wrIdcode4 v) := of_write (.idcode 4) fun _ => rfl
theorem rdIdmask4 : Statement .rdIdmask4 := of_read (.idmask 4) fun _ => rfl
theorem wrIdmask4 (v : Word) : Statement (.wrIdmask4 v) := of_write (.idmask 4) fun _ => rfl
theorem rdIdcode5 : Statement .rdIdcode5 := of_read (.idcode 5) fun _ => rfl
theorem wrIdcode5 (v : Word) : Statement (.wrIdcode5 v) := of_write (.idcode 5) fun _ => rfl
theorem rdIdmask5 : Statement .rdIdmask5 := of_read (.idmask 5) fun _ => rfl
theorem wrIdmask5 (v : Word) : Statement (.wrIdmask5 v) := of_write (.idmask 5) fun _ => rfl
theorem rdTxfic : Statement .rdTxfic := of_read .txfic fun _ => rfl
theorem wrTxfic (v : Word) : Statement (.wrTxfic v) := of_write .txfic fun _ => rfl
theorem rdTxid : Statement .rdTxid := of_read .txid fun _ => rfl
theorem wrTxid (v : Word) : Statement (.wrTxid v) := of_write .txid fun _ => rfl
theorem rdTxdat0 : Statement .rdTxdat0 := of_read (.txdat 0) fun _ => rfl
theorem wrTxdat0 (v : Word) : Statement (.wrTxdat0 v) := of_write (.txdat 0) fun _ => rfl
theorem rdTxdat1 : Statement .rdTxdat1 := of_read (.txdat 1) fun _ => rfl
theorem wrTxdat1 (v : Word) : Statement (.wrTxdat1 v) := of_write (.txdat 1) fun _ => rfl
theorem rdTxdat2 : Statement .rdTxdat2 := of_read (.txdat 2) fun _ => rfl
theorem wrTxdat2 (v : Word) : Statement (.wrTxdat2 v) := of_write (.txdat 2) fun _ => rfl
theorem rdTxdat3 : Statement .rdTxdat3 := of_read (.txdat 3) fun _ => rfl
theorem wrTxdat3 (v : Word) : Statement (.wrTxdat3 v) := of_write (.txdat 3) fun _ => rfl
theorem rdTxdat4 : Statement .rdTxdat4 := of_read (.txdat 4) fun _ => rfl
theorem wrTxdat4 (v : Word) : Statement (.wrTxdat4 v) := of_write (.txdat 4) fun _ => rfl
theorem rdTxdat5 : Statement .rdTxdat5 := of_read (.txdat 5) fun _ => rfl
theorem wrTxdat5 (v : Word) : Statement (.wrTxdat5 v) := of_write (.txdat 5) fun _ => rfl
theorem rdTxdat6 : Statement .rdTxdat6 := of_read (.txdat 6) fun _ => rfl
theorem wrTxdat6 (v : Word) : Statement (.wrTxdat6 v) := of_write (.txdat 6) fun _ => rfl
theorem rdTxdat7 : Statement .rdTxdat7 := of_read (.txdat 7) fun _ => rfl
theorem wrTxdat7 (v : Word) : Statement (.wrTxdat7 v) := of_write (.txdat 7) fun _ => rfl
theorem rdTxdat8 : Statement .rdTxdat8 := of_read (.txdat 8) fun _ => rfl
theorem wrTxdat8 (v : Word) : Statement (.wrTxdat8 v) := of_write (.txdat 8) fun _ => rfl
theorem rdTxdat9 : Statement .rdTxdat9 := of_read (.txdat 9) fun _ => rfl
theorem wrTxdat9 (v : Word) : Statement (.wrTxdat9 v) := of_write (.txdat 9) fun _ => rfl
theorem rdTxdat10 : Statement .rdTxdat10 := of_read (.txdat 10) fun _ => rfl
theorem wrTxdat10 (v : Word) : Statement (.wrTxdat10 v) := of_write (.txdat 10) fun _ => rfl
theorem rdTxdat11 : Statement .rdTxdat11 := of_read (.txdat 11) fun _ => rfl
theorem wrTxdat11 (v : Word) : Statement (.wrTxdat11 v) := of_write (.txdat 11) fun _ => rfl
theorem rdTxdat12 : Statement .rdTxdat12 := of_read (.txdat 12) fun _ => rfl
theorem wrTxdat12 (v : Word) : Statement (.wrTxdat12 v) := of_write (.txdat 12) fun _ => rfl
theorem rdTxdat13 : Statement .rdTxdat13 := of_read (.txdat 13) fun _ => rfl
theorem wrTxdat13 (v : Word) : Statement (.wrTxdat13 v) := of_write (.txdat 13) fun _ => rfl
theorem rdTxdat14 : Statement .rdTxdat14 := of_read (.txdat 14) fun _ => rfl
theorem wrTxdat14 (v : Word) : Statement (.wrTxdat14 v) := of_write (.txdat 14) fun _ => rfl
theorem rdTxdat15 : Statement .rdTxdat15 := of_read (.txdat 15) fun _ => rfl
theorem wrTxdat15 (v : Word) : Statement (.wrTxdat15 v) := of_write (.txdat 15) fun _ => rfl
theorem rdRxport (j : Fin 19) : Statement (.rdRxport j) := of_read (.rxport j) fun _ => rfl
theorem wrRxport (j : Fin 19) (v : Word) : Statement (.wrRxport j v) := of_write (.rxport j) fun _ => rfl
theorem opAttach : Statement .opAttach := of_const 0x8001#16 (fun _ => rfl) (by decide)
theorem opConfigure (cfg : CanConfig) : Statement (.opConfigure cfg) := of_const 0x8002#16 (fun _ => rfl) (by decide)
theorem opStart : Statement .opStart := of_const 0x8003#16 (fun _ => rfl) (by decide)
theorem opStop : Statement .opStop := of_const 0x8004#16 (fun _ => rfl) (by decide)
theorem opTransmit (f : Frame) : Statement (.opTransmit f) := of_const 0x8005#16 (fun _ => rfl) (by decide)
theorem opIsr : Statement .opIsr := of_const 0x8006#16 (fun _ => rfl) (by decide)
theorem opGetBerrCounter : Statement .opGetBerrCounter := of_const 0x8007#16 (fun _ => rfl) (by decide)
theorem opEncodeNominal (t : BitTiming) : Statement (.opEncodeNominal t) := of_const 0x8008#16 (fun _ => rfl) (by decide)
theorem opEncodeData (t : BitTiming) : Statement (.opEncodeData t) := of_const 0x8009#16 (fun _ => rfl) (by decide)
theorem opComputeTdc (clockFreq dataBitrate : Word) : Statement (.opComputeTdc clockFreq dataBitrate) := of_const 0x800A#16 (fun _ => rfl) (by decide)
theorem opEnterReset : Statement .opEnterReset := of_const 0x800B#16 (fun _ => rfl) (by decide)
theorem opEnterNormal : Statement .opEnterNormal := of_const 0x800C#16 (fun _ => rfl) (by decide)
theorem opReceive : Statement .opReceive := of_const 0x800D#16 (fun _ => rfl) (by decide)
theorem opDetach : Statement .opDetach := of_const 0x800E#16 (fun _ => rfl) (by decide)
theorem evResetPulse : Statement .evResetPulse := of_const 0xC000#16 (fun _ => rfl) (by decide)
theorem evRxArrive (w : Vector Word 19) (accept : Bool) : Statement (.evRxArrive w accept) := of_const 0xC001#16 (fun _ => rfl) (by decide)
theorem evRxReassert : Statement .evRxReassert := of_const 0xC002#16 (fun _ => rfl) (by decide)
theorem evTxComplete (slot : SlotId) : Statement (.evTxComplete slot) := of_const 0xC003#16 (fun _ => rfl) (by decide)
theorem evTxWithdraw (slot : SlotId) : Statement (.evTxWithdraw slot) := of_const 0xC004#16 (fun _ => rfl) (by decide)
theorem evBusError (v : Word) : Statement (.evBusError v) := of_const 0xC005#16 (fun _ => rfl) (by decide)
theorem evArbLost (c : Word) : Statement (.evArbLost c) := of_const 0xC006#16 (fun _ => rfl) (by decide)
theorem evErrState (rxc txc : Word) (warn busoff raiseWarn raisePassive : Bool) : Statement (.evErrState rxc txc warn busoff raiseWarn raisePassive) := of_const 0xC007#16 (fun _ => rfl) (by decide)
theorem evOtherFlag (n : Fin 8) : Statement (.evOtherFlag n) := of_const 0xC008#16 (fun _ => rfl) (by decide)

end Sys2Proof.Laws.Descriptor
end

