-- ==== Sys2Proof/Laws/Decoding.lean ====
section
/-! SUPPORT. What the decoder's parts do: the register at an offset, and reading back each operand record as it was written
(spec/30_encoding.md R90 to R94, R111, log 6). -/

namespace Sys2Proof

/-- No register is found exactly where none has the offset (30 R111). -/
theorem Params.regAt_eq_none {p : Params} {o : Nat} : p.regAt o = none ↔ ∀ r, p.off r ≠ o := by
  simp only [Params.regAt, List.find?_eq_none, beq_iff_eq]
  exact ⟨fun h r => h r r.mem_all, fun h r _ => h r⟩

/-- A register that is found has the offset. -/
theorem Params.off_of_regAt {p : Params} {o : Nat} {r : Reg} (h : p.regAt o = some r) : p.off r = o := by
  simpa using List.find?_some h

/-- Under an admissible assignment an offset that is no read port's names its one register (00 R9). -/
theorem Params.Admissible.regAt_off {p : Params} (h : p.Admissible) {r : Reg} (hr : r.isRxport = false) :
    p.regAt (p.off r) = some r := by
  cases hf : p.regAt (p.off r) with
  | none => exact absurd rfl (Params.regAt_eq_none.mp hf r)
  | some r' =>
    have ho := Params.off_of_regAt hf
    rcases (h.off r).2.2 r' with rfl | ⟨h1, -⟩ | h1
    · rfl
    · rw [hr] at h1; cases h1
    · exact absurd ho.symm h1

@[simp] theorem readFlag_flagWord (b : Bool) : readFlag (flagWord b) = .ok b := by cases b <;> rfl

@[simp] theorem readSlot_slotWord (s : SlotId) : readSlot (slotWord s) = .ok s := by cases s <;> rfl

/-- The timing words read back as the record when its naturals fit (log 6). -/
theorem readTiming_timingWords {t : BitTiming} (h : t.fits = true) (rest : List Word) :
    readTiming (timingWords t ++ rest) = .ok (t, rest) := by
  simp only [BitTiming.fits, fitsWord, Bool.and_eq_true, decide_eq_true_eq] at h
  have e : ∀ n, n < 2 ^ 32 → n % 4294967296 = n := fun n hn => Nat.mod_eq_of_lt (by simpa using hn)
  simp [timingWords, readTiming, e _ h.1.1.1.1, e _ h.1.1.1.2, e _ h.1.1.2, e _ h.1.2, e _ h.2]

/-- A payload packs into one word for each four bytes begun (log 6). -/
theorem packBytes_length (bs : List Byte) : (packBytes bs).length = wordsFor bs.length := by
  induction bs using packBytes.induct <;> simp_all [packBytes, wordsFor]
  omega

end Sys2Proof
end

