-- ==== Sys2Proof/Laws/Ops.lean ====
section
/-! SUPPORT. What each shared operation can do, said once: how an operation ends, what a bus-engine step does when enabled or not,
and the mode changes, the receive and the handler's own operations (spec/42_mode_control.md R190 to R195,
spec/44_receive.md R223, R224, spec/45_interrupt.md R240 to R246, spec/60_exceptions.md R300). -/

namespace Sys2Proof.Machine

/-! ### How an operation ends -/

/-- With a valid handle the operation runs. -/
theorem withHandle_live {body : State → State} {s : State} (h : s.attached = .live) :
    withHandle body s = .next (body s) := by rw [withHandle, if_pos h]

/-- Without one it is refused (42 R199). -/
theorem withHandle_not_live {body : State → State} {s : State} (h : s.attached ≠ .live) :
    withHandle body s = .next (refuse .detached s) := by rw [withHandle, if_neg h]

/-- An operation that ends changes the point of control and the result. -/
theorem finish_eq (r : Result) (s : State) : finish r s = { s with core := .idle, result := r } := rfl

/-- A refusal marks the whole state and a valid handle, and changes nothing else (60 R300, 10 R51). -/
theorem refuse_eq (r : RefuseReason) (s : State) :
    refuse r s = { s with core := .idle, refused := true, handle := s.refusedHandle, result := .refuse r } := rfl

/-- With a valid handle, that handle's own mark is the only other change. -/
theorem refuse_live {s : State} (r : RefuseReason) (h : s.attached = .live) :
    refuse r s = { s with
      core := .idle, refused := true, handle := { s.handle with refused := true }, result := .refuse r } := by
  rw [refuse_eq, State.refusedHandle_live h]

/-- Without a valid handle, the whole-state mark is. -/
theorem refuse_not_live {s : State} (r : RefuseReason) (h : s.attached ≠ .live) :
    refuse r s = { s with core := .idle, refused := true, result := .refuse r } := by
  rw [refuse_eq, State.refusedHandle_not_live h]

/-- A fault is recorded, in the state and a valid handle, and nothing else changes (20 R75, 10 R51). -/
theorem raiseFault_eq (off : Nat) (s : State) :
    raiseFault off s =
      { s with core := .idle, fault := some off, handle := s.faultedHandle off, result := .fault off } := rfl

/-- An operation begins at its first step (10 R52). -/
theorem begin_eq (op : CoreOp) (s : State) : begin op s = { s with core := .running op 0 } := rfl

/-! ### Bus-engine steps -/

/-- A bus-engine step changes the device, appends to the trace and may take a choice, nothing else (46 R268). -/
theorem busStep_eq (s : State) (e : BusEvent) :
    busStep s e = { s with dev := (busStep s e).dev, trace := (busStep s e).trace, picks := (busStep s e).picks } := by
  unfold busStep; split <;> rfl

/-- A slot sends one of its pending snapshots. What was pending and is not sent stays pending, or all of it is dropped
(46 R262, 40 R133, log 26). -/
theorem sendPick_spec (c : TxPick) (snap : Snapshot) (older : List Snapshot) :
    (sendPick c snap older).1 ∈ snap :: older
      ∧ ((sendPick c snap older).2 = .sent (sendPick c snap older).1
        ∨ ∃ y rest, (sendPick c snap older).2 = .queued y rest
            ∧ (snap :: older).Perm ((sendPick c snap older).1 :: y :: rest)) := by
  unfold sendPick
  split
  · simp
  · next a l =>
    have hi : min c.index (a :: l).length < (snap :: a :: l).length := by simp
    have hx := List.getElem_mem hi
    have hd : (snap :: a :: l).getD (min c.index (a :: l).length) snap = (snap :: a :: l)[min c.index (a :: l).length] :=
      (List.getElem_eq_getD snap).symm
    simp only [hd]
    split
    · next h =>
      exact ⟨hx, .inr ⟨_, _, rfl, h ▸ (List.getElem_cons_eraseIdx_perm hi).symm⟩⟩
    · exact ⟨hx, .inl rfl⟩

/-- A slot requested once sends its snapshot (46 R262). -/
@[simp] theorem sendPick_nil (c : TxPick) (snap : Snapshot) : sendPick c snap [] = (snap, .sent snap) := rfl

/-- Each pending snapshot can be the one sent, as the last. -/
theorem sendPick_sent {snap x : Snapshot} {older : List Snapshot} (h : x ∈ snap :: older) :
    ∃ c, sendPick c snap older = (x, .sent x) := by
  obtain ⟨i, hi, rfl⟩ := List.getElem_of_mem h
  cases older with
  | nil => exact ⟨⟨0, false⟩, by simp at hi; subst hi; rfl⟩
  | cons a l =>
    have : min i (a :: l).length = i := by simp at hi ⊢; omega
    exact ⟨⟨i, false⟩, by simp only [sendPick, this, List.getD_eq_getElem _ _ hi]⟩

/-- And each can be sent with the others still pending, where there are others. -/
theorem sendPick_queued {snap x : Snapshot} {older : List Snapshot} (h : x ∈ snap :: older) (ho : older ≠ []) :
    ∃ c y rest, sendPick c snap older = (x, .queued y rest) := by
  obtain ⟨i, hi, rfl⟩ := List.getElem_of_mem h
  cases older with
  | nil => exact absurd rfl ho
  | cons a l =>
    have hm : min i (a :: l).length = i := by simp at hi ⊢; omega
    cases he : (snap :: a :: l).eraseIdx i with
    | nil =>
      have := congrArg List.length he
      rw [List.length_eraseIdx_of_lt hi] at this
      simp at this
    | cons y rest =>
      exact ⟨⟨i, true⟩, y, rest, by simp only [sendPick, hm, he, List.getD_eq_getElem _ _ hi]⟩

/-- With MODE.WORK = 0 and no slot queued, the bus engine can do nothing (46 R268). -/
theorem busStep_off {s : State} {e : BusEvent} (hw : s.dev.mode.work = false)
    (h0 : s.dev.slot0 = .idle) (h1 : s.dev.slot1 = .idle) : busStep s e = s := by
  apply busStep_of_disabled
  cases e with
  | txWithdraw x => cases x <;> simp [busEnabled, Device.slot, h0, h1, SlotState.isQueued]
  | _ => simp [busEnabled, hw]

/-- So nothing but the schedule changes before a core step then. -/
theorem interlude_off {s : State} (hw : s.dev.mode.work = false) (h0 : s.dev.slot0 = .idle) (h1 : s.dev.slot1 = .idle) :
    interlude s = s.setSchedule s.schedule.tail := by
  have key : ∀ (es : List BusEvent) (u : State), u.dev.mode.work = false → u.dev.slot0 = .idle → u.dev.slot1 = .idle →
      es.foldl busStep u = u := by
    intro es
    induction es with
    | nil => intros; rfl
    | cons e es ih =>
      intro u hw h0 h1
      rw [List.foldl_cons, busStep_off hw h0 h1, ih u hw h0 h1]
  unfold interlude
  split
  · next h => simp [h, State.setSchedule]; rw [← h]
  · next es rest h =>
    rw [h]
    exact key es _ hw h0 h1

/-- An arrival is dropped, queued with RX_FINISH, or dropped with RX_BUF_OV (46 R260). -/
theorem rxArrive_cases (p : Params) (w : Vector Word 19) (accept : Bool) (d : Device) :
    rxArrive p w accept d = d
      ∨ (d.rxfifo.length < p.rxFifoDepth
          ∧ rxArrive p w accept d = { d with rxfifo := d.rxfifo ++ [w.toList] }.raiseInt p.intRxFinish)
      ∨ rxArrive p w accept d = d.raiseInt p.intRxBufOv := by
  by_cases h : (!(d.filterOpen || accept)) = true
  · exact .inl (by rw [rxArrive, if_pos h])
  · by_cases h' : d.rxfifo.length < p.rxFifoDepth
    · exact .inr (.inl ⟨h', by rw [rxArrive, if_neg h, if_pos h']⟩)
    · exact .inr (.inr (by rw [rxArrive, if_neg h, if_neg h']))

/-- The bus engine queues no slot: with both slots idle they stay so (46 R268, 20 R82). -/
theorem busStep_slots {s : State} {e : BusEvent} (h : s.dev.slot0 = .idle ∧ s.dev.slot1 = .idle) :
    (busStep s e).dev.slot0 = .idle ∧ (busStep s e).dev.slot1 = .idle := by
  unfold busStep
  split
  · next he =>
    simp only [State.takePicks_dev, State.updDev_dev, State.emitAll_dev, State.emitAll_params]
    cases e with
    | rxArrive w a =>
      simp only [busDevice]
      rcases rxArrive_cases s.params w a s.dev with h' | ⟨-, h'⟩ | h' <;> rw [h'] <;> exact h
    | txComplete x => cases x <;> simp [busEnabled, Device.slot, SlotState.isQueued, h] at he
    | txWithdraw x => cases x <;> simp [busEnabled, Device.slot, SlotState.isQueued, h] at he
    | errState rxc txc w b rw rp => cases rw <;> cases rp <;> exact h
    | _ => exact h
  · exact h

theorem interlude_slots {s : State} (h : s.dev.slot0 = .idle ∧ s.dev.slot1 = .idle) :
    (interlude s).dev.slot0 = .idle ∧ (interlude s).dev.slot1 = .idle :=
  interlude_keeps (P := fun t => t.dev.slot0 = .idle ∧ t.dev.slot1 = .idle) (fun _ _ h => busStep_slots h)
    (fun _ _ h => h) s h

/-- A word that the bus engine appends stands behind what was in the FIFO: the old FIFO is a prefix of the new one. -/
theorem busStep_rxfifo (s : State) (e : BusEvent) : s.dev.rxfifo <+: (busStep s e).dev.rxfifo := by
  unfold busStep
  split
  · cases e with
    | rxArrive w a =>
      simp only [State.takePicks_dev, State.updDev_dev, State.emitAll_dev, State.emitAll_params, busDevice]
      rcases rxArrive_cases s.params w a s.dev with h | ⟨-, h⟩ | h <;> rw [h]
      · exact List.prefix_append _ _
      · exact List.prefix_rfl
    | _ =>
      simp only [State.takePicks_dev, State.updDev_dev, State.emitAll_dev, busDevice, rxReassert, txComplete, txWithdraw, busError,
        arbLost, errState, otherFlag, Device.raiseInt, Device.raiseIntIf, Device.setSlot]
      repeat' (first | exact List.prefix_rfl | split)
  · exact List.prefix_rfl

theorem interlude_rxfifo (s : State) : s.dev.rxfifo <+: (interlude s).dev.rxfifo :=
  interlude_keeps (P := fun t => s.dev.rxfifo <+: t.dev.rxfifo) (fun t e h => h.trans (busStep_rxfifo t e))
    (fun _ _ h => h) s List.prefix_rfl

/-- Raising a flag clears none. -/
theorem Device.raiseInt_keeps {d : Device} {n : Nat} (k : Nat) (h : d.intFlag n = true) : (d.raiseInt k).intFlag n = true := by
  simp only [Device.intFlag] at h
  simp only [Device.raiseInt, Device.intFlag, BitVec.getLsbD_or, h, Bool.true_or]

/-- The bus engine sets flags and clears none (46 R268). -/
theorem busStep_intFlag {s : State} {e : BusEvent} {n : Nat} (h : s.dev.intFlag n = true) :
    (busStep s e).dev.intFlag n = true := by
  unfold busStep
  split
  · simp only [State.takePicks_dev, State.updDev_dev, State.emitAll_dev, State.emitAll_params]
    cases e with
    | rxArrive w a =>
      simp only [busDevice]
      rcases rxArrive_cases s.params w a s.dev with h' | ⟨-, h'⟩ | h' <;> rw [h']
      · exact h
      · exact Device.raiseInt_keeps _ h
      · exact Device.raiseInt_keeps _ h
    | rxReassert => exact Device.raiseInt_keeps _ h
    | txComplete x =>
      simp only [busDevice, txComplete]
      split
      · cases x <;> exact Device.raiseInt_keeps _ h
      · exact h
    | txWithdraw x => cases x <;> exact h
    | busError v => exact Device.raiseInt_keeps _ h
    | arbLost c => exact Device.raiseInt_keeps _ h
    | errState rxc txc warn busoff rw rp =>
      simp only [busDevice, errState, Device.raiseIntIf]
      cases rw <;> cases rp
      · exact h
      · exact Device.raiseInt_keeps _ h
      · exact Device.raiseInt_keeps _ h
      · exact Device.raiseInt_keeps _ (Device.raiseInt_keeps _ h)
    | otherFlag k => exact Device.raiseInt_keeps _ h
  · exact h

theorem interlude_intFlag {s : State} {n : Nat} (h : s.dev.intFlag n = true) : (interlude s).dev.intFlag n = true :=
  interlude_keeps (P := fun t => t.dev.intFlag n = true) (fun _ _ h => busStep_intFlag h) (fun _ _ h => h) s h

/-! ### Setting bits and the modes -/

/-- `setbits` reads and writes back with the bits set, two core steps (00 R12). -/
theorem setbits_eq (r : Reg) (m : Word) (s : State) : setbits r m s = wr r ((rd r s).1 ||| m) (rd r s).2 := rfl

/-- Setting MODE bits sets the named ones and keeps the others, whatever the RSV bits read as (42 R191, 20 R82). -/
theorem setbits_mode {s : State} (hp : s.params.Admissible) (m : Word) :
    (setbits .mode m s).dev.mode =
      ⟨s.dev.mode.work || m.getLsbD s.params.modeWork, s.dev.mode.loopback || m.getLsbD s.params.modeLoopback,
        s.dev.mode.selftest || m.getLsbD s.params.modeSelftest, s.dev.mode.autoretx || m.getLsbD s.params.modeAutoretx,
        s.dev.mode.fd || m.getLsbD s.params.modeFd⟩ := by
  have := hp.mode
  simp only [setbits, wr_dev, rd_params, regWrite, writeMode, rd_value, regValue, readMode, modeOfWord,
    withRsv_getLsbD, modeMask, modeBits, BitVec.getLsbD_or, bit_getLsbD, bitIf_getLsbD, interlude_dev_mode, ModeBits.mk.injEq]
  refine ⟨?_, ?_, ?_, ?_, ?_⟩ <;> congr 1 <;> simp <;> grind

/-- enter_reset leaves MODE 0, and of the rest what the bus engine makes of the reset values before that write
(42 R190, 00 R5, 20 R80). -/
theorem enterReset_dev (s : State) :
    (enterReset s).dev =
      { (interlude (pulseStep s)).dev with mode := ⟨false, false, false, false, false⟩ } := by
  simp [enterReset, regWrite, writeMode, modeOfWord]

/-- With WORK drawn 0 the bus engine can do nothing between the pulse and the write of MODE, and with no step scheduled
there it does nothing (46 R268). -/
theorem interlude_pulse_dev {s : State}
    (h : s.schedule[1]?.getD [] = [] ∨ (s.fresh 0).getLsbD s.params.modeWork = false) :
    (interlude (pulseStep s)).dev = pulseDevice s.params s.fresh := by
  rcases h with h | h
  · unfold interlude
    split
    · simp
    · next es rest he =>
      have : es = [] := by
        rw [pulseStep_schedule] at he
        rcases hs : s.schedule with _ | ⟨a, _ | ⟨b, c⟩⟩ <;> simp_all
      simp [this]
  · rw [interlude_off] <;> simp [pulseDevice, modeOfWord, h]

/-- Then enter_reset leaves the reset values with MODE 0 (42 R190, 70 R331, log 25). -/
theorem enterReset_dev_quiet {s : State}
    (h : s.schedule[1]?.getD [] = [] ∨ (s.fresh 0).getLsbD s.params.modeWork = false) :
    (enterReset s).dev =
      { pulseDevice s.params s.fresh with mode := ⟨false, false, false, false, false⟩ } := by
  rw [enterReset_dev, interlude_pulse_dev h]

theorem enterReset_handle (s : State) : (enterReset s).handle = { s.handle with mode := .reset } := by simp [enterReset]

theorem enterNormal_handle (s : State) : (enterNormal s).handle = { s.handle with mode := .normal } := by
  simp [enterNormal, setbits]

/-- After enter_reset the bus engine can do nothing until the core acts again. -/
theorem interlude_enterReset (s : State) :
    interlude (enterReset s) = (enterReset s).setSchedule (enterReset s).schedule.tail := by
  have h := interlude_slots (s := pulseStep s) (by simp [pulseDevice])
  apply interlude_off <;> simp [enterReset_dev, h]

/-! ### Receive -/

/-- Reading read ports answers as many words as ports are read. -/
theorem popPorts_length (js : List (Fin 19)) (s : State) : (popPorts js s).1.length = js.length := by
  induction js generalizing s with
  | nil => rfl
  | cons j js ih => simp [popPorts, ih]

/-- Reading read ports keeps what a read and the interlude before it keep. -/
theorem popPorts_keeps {P : State → Prop} (h : ∀ (j : Fin 19) (s : State), P s → P (rd (.rxport j) s).2)
    (js : List (Fin 19)) (s : State) (hs : P s) : P (popPorts js s).2 := by
  induction js generalizing s with
  | nil => exact hs
  | cons j js ih => exact ih _ (h j s hs)

@[simp] theorem popPorts_handle (js : List (Fin 19)) (s : State) : (popPorts js s).2.handle = s.handle :=
  popPorts_keeps (P := fun t => t.handle = s.handle) (fun _ _ h => by simpa using h) js s rfl

@[simp] theorem popPorts_params (js : List (Fin 19)) (s : State) : (popPorts js s).2.params = s.params :=
  popPorts_keeps (P := fun t => t.params = s.params) (fun _ _ h => by simpa using h) js s rfl

@[simp] theorem popPorts_answers (js : List (Fin 19)) (s : State) : (popPorts js s).2.answers = s.answers :=
  popPorts_keeps (P := fun t => t.answers = s.answers) (fun _ _ h => by simpa using h) js s rfl

/-- Deliver changes only the statistics of the handle: it counts the frame or one drop (44 R224). -/
theorem deliver_handle (f : Frame) (s : State) :
    (deliver f s).handle = { s.handle with
      stats := if nextAlloc s then countReceived f s.handle.stats
        else { s.handle.stats with rxDropped := s.handle.stats.rxDropped + 1 } } := by
  unfold deliver
  split <;> simp

/-! ### The handler -/

/-- A flag step that does not run changes nothing (45 R232). -/
theorem whenFlag_of_clear {n : Nat} {step : IsrState → IsrState} {x : IsrState} (h : x.1.status.getLsbD n = false) :
    whenFlag n step x = x := by simp [whenFlag, h]

theorem whenFlag_of_set {n : Nat} {step : IsrState → IsrState} {x : IsrState} (h : x.1.status.getLsbD n = true) :
    whenFlag n step x = step x := by simp [whenFlag, h]

/-- Whether or not the flag is set, a flag step keeps what the step keeps. -/
theorem whenFlag_keeps {P : IsrState → Prop} {n : Nat} {step : IsrState → IsrState} (h : ∀ x, P x → P (step x))
    (x : IsrState) (hx : P x) : P (whenFlag n step x) := by
  unfold whenFlag; split
  · exact h x hx
  · exact hx

/-- ensure_ef leaves the status and the target, and of the handle changes at most the drop counter (45 R240). -/
theorem ensureEf_spec (x : IsrState) :
    (ensureEf x).1.status = x.1.status ∧ (ensureEf x).1.target = x.1.target
      ∧ (ensureEf x).2.params = x.2.params
      ∧ ((ensureEf x).2.handle = x.2.handle
          ∨ (ensureEf x).2.handle = { x.2.handle with
              stats := { x.2.handle.stats with rxDropped := x.2.handle.stats.rxDropped + 1 } }) := by
  unfold ensureEf
  split
  · split
    · simp
    · simp
  · simp

/-- No flag step changes the status (45 R230). -/
theorem isrSteps_status (p : Params) (x : IsrState) : (isrSteps p x).1.status = x.1.status := by
  have h0 : ∀ y, (ensureEf y).1.status = y.1.status := fun y => (ensureEf_spec y).1
  unfold isrSteps
  have key : ∀ {n : Nat} {st : IsrState → IsrState} (_ : ∀ y, (st y).1.status = y.1.status) (y : IsrState),
      (whenFlag n st y).1.status = y.1.status := fun h y => by unfold whenFlag; split <;> simp [h]
  have hu : ∀ y, (stateUpdate y).1.status = y.1.status := fun y => by
    simp only [stateUpdate, notifyIfBusOff, attributeState, editEf]
    split
    · split <;> simp [h0]
    · rfl
  rw [key, hu, key, key, key, key, key, key]
  all_goals intro y; simp [stepTxFinish, stepRxFinish, stepRxOverrun, stepErrorWarning, stepBusError, stepErrorPassive,
    stepArbitrationLost, editEf, countIn, h0]

/-- The state update leaves BusOff and Stopped (45 R242). -/
theorem stateUpdate_of_left_alone {x : IsrState} (h : x.2.handle.busState = .busOff ∨ x.2.handle.busState = .stopped) :
    stateUpdate x = x := by
  unfold stateUpdate
  rw [if_neg]
  rintro ⟨-, h1, h2⟩
  rcases h with h | h <;> contradiction

end Sys2Proof.Machine
end

