-- ==== Sys2Proof/Laws/Sequences.lean ====
section
/-! SUPPORT. What the sequences of core steps leave alone: the parameters, the marks, the handle's existence, the requests and
the result, and what they write of the handle (spec/42_mode_control.md R190 to R195, spec/43_transmit.md R214,
spec/44_receive.md R223, spec/45_interrupt.md R232 to R246). -/

namespace Sys2Proof.Machine

@[simp] theorem setbits_params (r : Reg) (m : Word) (s : State) : (setbits r m s).params = s.params := by
  simp [setbits]

@[simp] theorem setbits_attached (r : Reg) (m : Word) (s : State) : (setbits r m s).attached = s.attached := by
  simp [setbits]

@[simp] theorem setbits_fault (r : Reg) (m : Word) (s : State) : (setbits r m s).fault = s.fault := by
  simp [setbits]

@[simp] theorem setbits_refused (r : Reg) (m : Word) (s : State) : (setbits r m s).refused = s.refused := by
  simp [setbits]

@[simp] theorem setbits_result (r : Reg) (m : Word) (s : State) : (setbits r m s).result = s.result := by
  simp [setbits]

@[simp] theorem setbits_inbox (r : Reg) (m : Word) (s : State) : (setbits r m s).inbox = s.inbox := by
  simp [setbits]

@[simp] theorem setbits_handle (r : Reg) (m : Word) (s : State) : (setbits r m s).handle = s.handle := by
  simp [setbits]

@[simp] theorem setbits_answers (r : Reg) (m : Word) (s : State) : (setbits r m s).answers = s.answers := by
  simp [setbits]

@[simp] theorem enterReset_params (s : State) : (enterReset s).params = s.params := by
  simp [enterReset]

@[simp] theorem enterReset_attached (s : State) : (enterReset s).attached = s.attached := by
  simp [enterReset]

@[simp] theorem enterReset_fault (s : State) : (enterReset s).fault = s.fault := by
  simp [enterReset]

@[simp] theorem enterReset_refused (s : State) : (enterReset s).refused = s.refused := by
  simp [enterReset]

@[simp] theorem enterReset_result (s : State) : (enterReset s).result = s.result := by
  simp [enterReset]

@[simp] theorem enterReset_inbox (s : State) : (enterReset s).inbox = s.inbox := by
  simp [enterReset]

@[simp] theorem enterReset_answers (s : State) : (enterReset s).answers = s.answers := by
  simp [enterReset]

@[simp] theorem enterNormal_params (s : State) : (enterNormal s).params = s.params := by
  simp [enterNormal]

@[simp] theorem enterNormal_attached (s : State) : (enterNormal s).attached = s.attached := by
  simp [enterNormal]

@[simp] theorem enterNormal_fault (s : State) : (enterNormal s).fault = s.fault := by
  simp [enterNormal]

@[simp] theorem enterNormal_refused (s : State) : (enterNormal s).refused = s.refused := by
  simp [enterNormal]

@[simp] theorem enterNormal_result (s : State) : (enterNormal s).result = s.result := by
  simp [enterNormal]

@[simp] theorem enterNormal_inbox (s : State) : (enterNormal s).inbox = s.inbox := by
  simp [enterNormal]

@[simp] theorem enterNormal_answers (s : State) : (enterNormal s).answers = s.answers := by
  simp [enterNormal]

/-- A property that one filter pair's writes keep is kept by program_filters. -/
theorem programFilters_keeps {P : State → Prop} (h : ∀ s k, P s → P (programFilter s k)) (s : State) (hs : P s) :
    P (programFilters s) := by
  unfold programFilters
  generalize List.finRange 6 = ks
  induction ks generalizing s with
  | nil => exact hs
  | cons k ks ih => exact ih _ (h s k hs)

@[simp] theorem programFilters_params (s : State) : (programFilters s).params = s.params :=
  programFilters_keeps (P := fun t => t.params = s.params) (fun _ _ h => by simpa [programFilter] using h) s rfl

@[simp] theorem programFilters_attached (s : State) : (programFilters s).attached = s.attached :=
  programFilters_keeps (P := fun t => t.attached = s.attached) (fun _ _ h => by simpa [programFilter] using h) s rfl

@[simp] theorem programFilters_fault (s : State) : (programFilters s).fault = s.fault :=
  programFilters_keeps (P := fun t => t.fault = s.fault) (fun _ _ h => by simpa [programFilter] using h) s rfl

@[simp] theorem programFilters_refused (s : State) : (programFilters s).refused = s.refused :=
  programFilters_keeps (P := fun t => t.refused = s.refused) (fun _ _ h => by simpa [programFilter] using h) s rfl

@[simp] theorem programFilters_result (s : State) : (programFilters s).result = s.result :=
  programFilters_keeps (P := fun t => t.result = s.result) (fun _ _ h => by simpa [programFilter] using h) s rfl

@[simp] theorem programFilters_inbox (s : State) : (programFilters s).inbox = s.inbox :=
  programFilters_keeps (P := fun t => t.inbox = s.inbox) (fun _ _ h => by simpa [programFilter] using h) s rfl

@[simp] theorem programFilters_handle (s : State) : (programFilters s).handle = s.handle :=
  programFilters_keeps (P := fun t => t.handle = s.handle) (fun _ _ h => by simpa [programFilter] using h) s rfl

@[simp] theorem programFilters_answers (s : State) : (programFilters s).answers = s.answers :=
  programFilters_keeps (P := fun t => t.answers = s.answers) (fun _ _ h => by simpa [programFilter] using h) s rfl

@[simp] theorem programFilters_supplied (s : State) : (programFilters s).supplied = s.supplied :=
  programFilters_keeps (P := fun t => t.supplied = s.supplied) (fun _ _ h => by simpa [programFilter] using h) s rfl

@[simp] theorem programFilters_draws (s : State) : (programFilters s).draws = s.draws :=
  programFilters_keeps (P := fun t => t.draws = s.draws) (fun _ _ h => by simpa [programFilter] using h) s rfl

@[simp] theorem programFd_params (fd : Bool) (s : State) : (programFd fd s).params = s.params := by
  cases fd <;> simp [programFd]

@[simp] theorem programFd_attached (fd : Bool) (s : State) : (programFd fd s).attached = s.attached := by
  cases fd <;> simp [programFd]

@[simp] theorem programFd_fault (fd : Bool) (s : State) : (programFd fd s).fault = s.fault := by
  cases fd <;> simp [programFd]

@[simp] theorem programFd_refused (fd : Bool) (s : State) : (programFd fd s).refused = s.refused := by
  cases fd <;> simp [programFd]

@[simp] theorem programFd_result (fd : Bool) (s : State) : (programFd fd s).result = s.result := by
  cases fd <;> simp [programFd]

@[simp] theorem programFd_inbox (fd : Bool) (s : State) : (programFd fd s).inbox = s.inbox := by
  cases fd <;> simp [programFd]

@[simp] theorem programFd_handle (fd : Bool) (s : State) : (programFd fd s).handle = s.handle := by
  cases fd <;> simp [programFd]

@[simp] theorem programFd_answers (fd : Bool) (s : State) : (programFd fd s).answers = s.answers := by
  cases fd <;> simp [programFd]

@[simp] theorem programLoopback_params (b : Bool) (s : State) : (programLoopback b s).params = s.params := by
  cases b <;> simp [programLoopback]

@[simp] theorem programLoopback_attached (b : Bool) (s : State) : (programLoopback b s).attached = s.attached := by
  cases b <;> simp [programLoopback]

@[simp] theorem programLoopback_fault (b : Bool) (s : State) : (programLoopback b s).fault = s.fault := by
  cases b <;> simp [programLoopback]

@[simp] theorem programLoopback_refused (b : Bool) (s : State) : (programLoopback b s).refused = s.refused := by
  cases b <;> simp [programLoopback]

@[simp] theorem programLoopback_result (b : Bool) (s : State) : (programLoopback b s).result = s.result := by
  cases b <;> simp [programLoopback]

@[simp] theorem programLoopback_inbox (b : Bool) (s : State) : (programLoopback b s).inbox = s.inbox := by
  cases b <;> simp [programLoopback]

@[simp] theorem programLoopback_handle (b : Bool) (s : State) : (programLoopback b s).handle = s.handle := by
  cases b <;> simp [programLoopback]

@[simp] theorem programLoopback_answers (b : Bool) (s : State) : (programLoopback b s).answers = s.answers := by
  cases b <;> simp [programLoopback]

@[simp] theorem programFeatures_params (cfg : CanConfig) (s : State) : (programFeatures cfg s).params = s.params := by
  simp [programFeatures]

@[simp] theorem programFeatures_attached (cfg : CanConfig) (s : State) : (programFeatures cfg s).attached = s.attached := by
  simp [programFeatures]

@[simp] theorem programFeatures_fault (cfg : CanConfig) (s : State) : (programFeatures cfg s).fault = s.fault := by
  simp [programFeatures]

@[simp] theorem programFeatures_refused (cfg : CanConfig) (s : State) : (programFeatures cfg s).refused = s.refused := by
  simp [programFeatures]

@[simp] theorem programFeatures_result (cfg : CanConfig) (s : State) : (programFeatures cfg s).result = s.result := by
  simp [programFeatures]

@[simp] theorem programFeatures_inbox (cfg : CanConfig) (s : State) : (programFeatures cfg s).inbox = s.inbox := by
  simp [programFeatures]

@[simp] theorem programFeatures_handle (cfg : CanConfig) (s : State) : (programFeatures cfg s).handle = s.handle := by
  simp [programFeatures]

@[simp] theorem programFeatures_answers (cfg : CanConfig) (s : State) : (programFeatures cfg s).answers = s.answers := by
  simp [programFeatures]

@[simp] theorem programTdc_params (t : Option (BitVec 8)) (s : State) : (programTdc t s).params = s.params := by
  cases t <;> simp [programTdc]

@[simp] theorem programTdc_attached (t : Option (BitVec 8)) (s : State) : (programTdc t s).attached = s.attached := by
  cases t <;> simp [programTdc]

@[simp] theorem programTdc_fault (t : Option (BitVec 8)) (s : State) : (programTdc t s).fault = s.fault := by
  cases t <;> simp [programTdc]

@[simp] theorem programTdc_refused (t : Option (BitVec 8)) (s : State) : (programTdc t s).refused = s.refused := by
  cases t <;> simp [programTdc]

@[simp] theorem programTdc_result (t : Option (BitVec 8)) (s : State) : (programTdc t s).result = s.result := by
  cases t <;> simp [programTdc]

@[simp] theorem programTdc_inbox (t : Option (BitVec 8)) (s : State) : (programTdc t s).inbox = s.inbox := by
  cases t <;> simp [programTdc]

@[simp] theorem programTdc_handle (t : Option (BitVec 8)) (s : State) : (programTdc t s).handle = s.handle := by
  cases t <;> simp [programTdc]

@[simp] theorem programTdc_answers (t : Option (BitVec 8)) (s : State) : (programTdc t s).answers = s.answers := by
  cases t <;> simp [programTdc]

/-- A property that one payload write keeps is kept by writing the payload. -/
theorem stagePayload_keeps {P : State → Prop} (h : ∀ s x, P s → P (stagePayload s x)) (xs : List (Fin 16 × Word))
    (s : State) (hs : P s) : P (xs.foldl stagePayload s) := by
  induction xs generalizing s with
  | nil => exact hs
  | cons x xs ih => exact ih _ (h s x hs)

@[simp] theorem stagePayload_foldl_params (xs : List (Fin 16 × Word)) (s : State) :
    (xs.foldl stagePayload s).params = s.params :=
  stagePayload_keeps (P := fun t => t.params = s.params) (fun _ _ h => by simpa [stagePayload] using h) xs s rfl

@[simp] theorem stagePayload_foldl_attached (xs : List (Fin 16 × Word)) (s : State) :
    (xs.foldl stagePayload s).attached = s.attached :=
  stagePayload_keeps (P := fun t => t.attached = s.attached) (fun _ _ h => by simpa [stagePayload] using h) xs s rfl

@[simp] theorem stagePayload_foldl_fault (xs : List (Fin 16 × Word)) (s : State) :
    (xs.foldl stagePayload s).fault = s.fault :=
  stagePayload_keeps (P := fun t => t.fault = s.fault) (fun _ _ h => by simpa [stagePayload] using h) xs s rfl

@[simp] theorem stagePayload_foldl_refused (xs : List (Fin 16 × Word)) (s : State) :
    (xs.foldl stagePayload s).refused = s.refused :=
  stagePayload_keeps (P := fun t => t.refused = s.refused) (fun _ _ h => by simpa [stagePayload] using h) xs s rfl

@[simp] theorem stagePayload_foldl_result (xs : List (Fin 16 × Word)) (s : State) :
    (xs.foldl stagePayload s).result = s.result :=
  stagePayload_keeps (P := fun t => t.result = s.result) (fun _ _ h => by simpa [stagePayload] using h) xs s rfl

@[simp] theorem stagePayload_foldl_inbox (xs : List (Fin 16 × Word)) (s : State) :
    (xs.foldl stagePayload s).inbox = s.inbox :=
  stagePayload_keeps (P := fun t => t.inbox = s.inbox) (fun _ _ h => by simpa [stagePayload] using h) xs s rfl

@[simp] theorem stagePayload_foldl_handle (xs : List (Fin 16 × Word)) (s : State) :
    (xs.foldl stagePayload s).handle = s.handle :=
  stagePayload_keeps (P := fun t => t.handle = s.handle) (fun _ _ h => by simpa [stagePayload] using h) xs s rfl

@[simp] theorem stagePayload_foldl_answers (xs : List (Fin 16 × Word)) (s : State) :
    (xs.foldl stagePayload s).answers = s.answers :=
  stagePayload_keeps (P := fun t => t.answers = s.answers) (fun _ _ h => by simpa [stagePayload] using h) xs s rfl

@[simp] theorem stagePayload_foldl_supplied (xs : List (Fin 16 × Word)) (s : State) :
    (xs.foldl stagePayload s).supplied = s.supplied :=
  stagePayload_keeps (P := fun t => t.supplied = s.supplied) (fun _ _ h => by simpa [stagePayload] using h) xs s rfl

@[simp] theorem stagePayload_foldl_draws (xs : List (Fin 16 × Word)) (s : State) :
    (xs.foldl stagePayload s).draws = s.draws :=
  stagePayload_keeps (P := fun t => t.draws = s.draws) (fun _ _ h => by simpa [stagePayload] using h) xs s rfl

@[simp] theorem stageFrame_params (f : Frame) (s : State) : (stageFrame f s).params = s.params := by
  simp [stageFrame]

@[simp] theorem stageFrame_attached (f : Frame) (s : State) : (stageFrame f s).attached = s.attached := by
  simp [stageFrame]

@[simp] theorem stageFrame_fault (f : Frame) (s : State) : (stageFrame f s).fault = s.fault := by
  simp [stageFrame]

@[simp] theorem stageFrame_refused (f : Frame) (s : State) : (stageFrame f s).refused = s.refused := by
  simp [stageFrame]

@[simp] theorem stageFrame_result (f : Frame) (s : State) : (stageFrame f s).result = s.result := by
  simp [stageFrame]

@[simp] theorem stageFrame_inbox (f : Frame) (s : State) : (stageFrame f s).inbox = s.inbox := by
  simp [stageFrame]

@[simp] theorem stageFrame_handle (f : Frame) (s : State) : (stageFrame f s).handle = s.handle := by
  simp [stageFrame]

@[simp] theorem stageFrame_answers (f : Frame) (s : State) : (stageFrame f s).answers = s.answers := by
  simp [stageFrame]

@[simp] theorem popPorts_attached (js : List (Fin 19)) (s : State) : (popPorts js s).2.attached = s.attached :=
  popPorts_keeps (P := fun t => t.attached = s.attached) (fun _ _ h => by simpa using h) js s rfl

@[simp] theorem popPorts_fault (js : List (Fin 19)) (s : State) : (popPorts js s).2.fault = s.fault :=
  popPorts_keeps (P := fun t => t.fault = s.fault) (fun _ _ h => by simpa using h) js s rfl

@[simp] theorem popPorts_refused (js : List (Fin 19)) (s : State) : (popPorts js s).2.refused = s.refused :=
  popPorts_keeps (P := fun t => t.refused = s.refused) (fun _ _ h => by simpa using h) js s rfl

@[simp] theorem popPorts_result (js : List (Fin 19)) (s : State) : (popPorts js s).2.result = s.result :=
  popPorts_keeps (P := fun t => t.result = s.result) (fun _ _ h => by simpa using h) js s rfl

@[simp] theorem popPorts_inbox (js : List (Fin 19)) (s : State) : (popPorts js s).2.inbox = s.inbox :=
  popPorts_keeps (P := fun t => t.inbox = s.inbox) (fun _ _ h => by simpa using h) js s rfl

@[simp] theorem deliver_params (f : Frame) (s : State) : (deliver f s).params = s.params := by
  unfold deliver; split <;> simp

@[simp] theorem deliver_attached (f : Frame) (s : State) : (deliver f s).attached = s.attached := by
  unfold deliver; split <;> simp

@[simp] theorem deliver_fault (f : Frame) (s : State) : (deliver f s).fault = s.fault := by
  unfold deliver; split <;> simp

@[simp] theorem deliver_refused (f : Frame) (s : State) : (deliver f s).refused = s.refused := by
  unfold deliver; split <;> simp

@[simp] theorem deliver_result (f : Frame) (s : State) : (deliver f s).result = s.result := by
  unfold deliver; split <;> simp

@[simp] theorem deliver_inbox (f : Frame) (s : State) : (deliver f s).inbox = s.inbox := by
  unfold deliver; split <;> simp

@[simp] theorem receive_params (s : State) : (receive s).params = s.params := by
  simp [receive]

@[simp] theorem receive_attached (s : State) : (receive s).attached = s.attached := by
  simp [receive]

@[simp] theorem receive_fault (s : State) : (receive s).fault = s.fault := by
  simp [receive]

@[simp] theorem receive_refused (s : State) : (receive s).refused = s.refused := by
  simp [receive]

@[simp] theorem receive_result (s : State) : (receive s).result = s.result := by
  simp [receive]

@[simp] theorem receive_inbox (s : State) : (receive s).inbox = s.inbox := by
  simp [receive]

@[simp] theorem completeEcho_params (s : State) : (completeEcho s).params = s.params := by
  unfold completeEcho; split <;> simp

@[simp] theorem completeEcho_attached (s : State) : (completeEcho s).attached = s.attached := by
  unfold completeEcho; split <;> simp

@[simp] theorem completeEcho_fault (s : State) : (completeEcho s).fault = s.fault := by
  unfold completeEcho; split <;> simp

@[simp] theorem completeEcho_refused (s : State) : (completeEcho s).refused = s.refused := by
  unfold completeEcho; split <;> simp

@[simp] theorem completeEcho_result (s : State) : (completeEcho s).result = s.result := by
  unfold completeEcho; split <;> simp

@[simp] theorem completeEcho_inbox (s : State) : (completeEcho s).inbox = s.inbox := by
  unfold completeEcho; split <;> simp

@[simp] theorem completeEcho_answers (s : State) : (completeEcho s).answers = s.answers := by
  unfold completeEcho; split <;> simp

@[simp] theorem completeEcho_handle (s : State) : (completeEcho s).handle = { s.handle with outstanding := s.handle.outstanding.tail } := by
  cases h : s.handle.outstanding with
  | nil => simp [completeEcho, h]; rw [← h]
  | cons e rest => simp [completeEcho, h]

@[simp] theorem ensureEf_params (x : IsrState) : (ensureEf x).2.params = x.2.params := by
  unfold ensureEf; split
  · split <;> simp
  · rfl

@[simp] theorem ensureEf_attached (x : IsrState) : (ensureEf x).2.attached = x.2.attached := by
  unfold ensureEf; split
  · split <;> simp
  · rfl

@[simp] theorem ensureEf_fault (x : IsrState) : (ensureEf x).2.fault = x.2.fault := by
  unfold ensureEf; split
  · split <;> simp
  · rfl

@[simp] theorem ensureEf_refused (x : IsrState) : (ensureEf x).2.refused = x.2.refused := by
  unfold ensureEf; split
  · split <;> simp
  · rfl

@[simp] theorem ensureEf_result (x : IsrState) : (ensureEf x).2.result = x.2.result := by
  unfold ensureEf; split
  · split <;> simp
  · rfl

@[simp] theorem ensureEf_inbox (x : IsrState) : (ensureEf x).2.inbox = x.2.inbox := by
  unfold ensureEf; split
  · split <;> simp
  · rfl

@[simp] theorem stepTxFinish_params (x : IsrState) : (stepTxFinish x).2.params = x.2.params := by
  simp [stepTxFinish]

@[simp] theorem stepTxFinish_attached (x : IsrState) : (stepTxFinish x).2.attached = x.2.attached := by
  simp [stepTxFinish]

@[simp] theorem stepTxFinish_fault (x : IsrState) : (stepTxFinish x).2.fault = x.2.fault := by
  simp [stepTxFinish]

@[simp] theorem stepTxFinish_refused (x : IsrState) : (stepTxFinish x).2.refused = x.2.refused := by
  simp [stepTxFinish]

@[simp] theorem stepTxFinish_result (x : IsrState) : (stepTxFinish x).2.result = x.2.result := by
  simp [stepTxFinish]

@[simp] theorem stepTxFinish_inbox (x : IsrState) : (stepTxFinish x).2.inbox = x.2.inbox := by
  simp [stepTxFinish]

@[simp] theorem stepRxFinish_params (x : IsrState) : (stepRxFinish x).2.params = x.2.params := by
  simp [stepRxFinish]

@[simp] theorem stepRxFinish_attached (x : IsrState) : (stepRxFinish x).2.attached = x.2.attached := by
  simp [stepRxFinish]

@[simp] theorem stepRxFinish_fault (x : IsrState) : (stepRxFinish x).2.fault = x.2.fault := by
  simp [stepRxFinish]

@[simp] theorem stepRxFinish_refused (x : IsrState) : (stepRxFinish x).2.refused = x.2.refused := by
  simp [stepRxFinish]

@[simp] theorem stepRxFinish_result (x : IsrState) : (stepRxFinish x).2.result = x.2.result := by
  simp [stepRxFinish]

@[simp] theorem stepRxFinish_inbox (x : IsrState) : (stepRxFinish x).2.inbox = x.2.inbox := by
  simp [stepRxFinish]

@[simp] theorem stepRxOverrun_params (x : IsrState) : (stepRxOverrun x).2.params = x.2.params := by
  simp [stepRxOverrun, editEf, countIn]

@[simp] theorem stepRxOverrun_attached (x : IsrState) : (stepRxOverrun x).2.attached = x.2.attached := by
  simp [stepRxOverrun, editEf, countIn]

@[simp] theorem stepRxOverrun_fault (x : IsrState) : (stepRxOverrun x).2.fault = x.2.fault := by
  simp [stepRxOverrun, editEf, countIn]

@[simp] theorem stepRxOverrun_refused (x : IsrState) : (stepRxOverrun x).2.refused = x.2.refused := by
  simp [stepRxOverrun, editEf, countIn]

@[simp] theorem stepRxOverrun_result (x : IsrState) : (stepRxOverrun x).2.result = x.2.result := by
  simp [stepRxOverrun, editEf, countIn]

@[simp] theorem stepRxOverrun_inbox (x : IsrState) : (stepRxOverrun x).2.inbox = x.2.inbox := by
  simp [stepRxOverrun, editEf, countIn]

@[simp] theorem stepErrorWarning_params (x : IsrState) : (stepErrorWarning x).2.params = x.2.params := by
  simp [stepErrorWarning]

@[simp] theorem stepErrorWarning_attached (x : IsrState) : (stepErrorWarning x).2.attached = x.2.attached := by
  simp [stepErrorWarning]

@[simp] theorem stepErrorWarning_fault (x : IsrState) : (stepErrorWarning x).2.fault = x.2.fault := by
  simp [stepErrorWarning]

@[simp] theorem stepErrorWarning_refused (x : IsrState) : (stepErrorWarning x).2.refused = x.2.refused := by
  simp [stepErrorWarning]

@[simp] theorem stepErrorWarning_result (x : IsrState) : (stepErrorWarning x).2.result = x.2.result := by
  simp [stepErrorWarning]

@[simp] theorem stepErrorWarning_inbox (x : IsrState) : (stepErrorWarning x).2.inbox = x.2.inbox := by
  simp [stepErrorWarning]

@[simp] theorem stepBusError_params (x : IsrState) : (stepBusError x).2.params = x.2.params := by
  simp [stepBusError, editEf]

@[simp] theorem stepBusError_attached (x : IsrState) : (stepBusError x).2.attached = x.2.attached := by
  simp [stepBusError, editEf]

@[simp] theorem stepBusError_fault (x : IsrState) : (stepBusError x).2.fault = x.2.fault := by
  simp [stepBusError, editEf]

@[simp] theorem stepBusError_refused (x : IsrState) : (stepBusError x).2.refused = x.2.refused := by
  simp [stepBusError, editEf]

@[simp] theorem stepBusError_result (x : IsrState) : (stepBusError x).2.result = x.2.result := by
  simp [stepBusError, editEf]

@[simp] theorem stepBusError_inbox (x : IsrState) : (stepBusError x).2.inbox = x.2.inbox := by
  simp [stepBusError, editEf]

@[simp] theorem stepErrorPassive_params (x : IsrState) : (stepErrorPassive x).2.params = x.2.params := by
  rfl

@[simp] theorem stepErrorPassive_attached (x : IsrState) : (stepErrorPassive x).2.attached = x.2.attached := by
  rfl

@[simp] theorem stepErrorPassive_fault (x : IsrState) : (stepErrorPassive x).2.fault = x.2.fault := by
  rfl

@[simp] theorem stepErrorPassive_refused (x : IsrState) : (stepErrorPassive x).2.refused = x.2.refused := by
  rfl

@[simp] theorem stepErrorPassive_result (x : IsrState) : (stepErrorPassive x).2.result = x.2.result := by
  rfl

@[simp] theorem stepErrorPassive_inbox (x : IsrState) : (stepErrorPassive x).2.inbox = x.2.inbox := by
  rfl

@[simp] theorem attributeState_params (new : BusState) (x : IsrState) : (attributeState new x).2.params = x.2.params := by
  simp [attributeState, editEf]

@[simp] theorem attributeState_attached (new : BusState) (x : IsrState) : (attributeState new x).2.attached = x.2.attached := by
  simp [attributeState, editEf]

@[simp] theorem attributeState_fault (new : BusState) (x : IsrState) : (attributeState new x).2.fault = x.2.fault := by
  simp [attributeState, editEf]

@[simp] theorem attributeState_refused (new : BusState) (x : IsrState) : (attributeState new x).2.refused = x.2.refused := by
  simp [attributeState, editEf]

@[simp] theorem attributeState_result (new : BusState) (x : IsrState) : (attributeState new x).2.result = x.2.result := by
  simp [attributeState, editEf]

@[simp] theorem attributeState_inbox (new : BusState) (x : IsrState) : (attributeState new x).2.inbox = x.2.inbox := by
  simp [attributeState, editEf]

@[simp] theorem notifyIfBusOff_params (new : BusState) (x : IsrState) : (notifyIfBusOff new x).2.params = x.2.params := by
  simp only [notifyIfBusOff]; split <;> simp

@[simp] theorem notifyIfBusOff_attached (new : BusState) (x : IsrState) : (notifyIfBusOff new x).2.attached = x.2.attached := by
  simp only [notifyIfBusOff]; split <;> simp

@[simp] theorem notifyIfBusOff_fault (new : BusState) (x : IsrState) : (notifyIfBusOff new x).2.fault = x.2.fault := by
  simp only [notifyIfBusOff]; split <;> simp

@[simp] theorem notifyIfBusOff_refused (new : BusState) (x : IsrState) : (notifyIfBusOff new x).2.refused = x.2.refused := by
  simp only [notifyIfBusOff]; split <;> simp

@[simp] theorem notifyIfBusOff_result (new : BusState) (x : IsrState) : (notifyIfBusOff new x).2.result = x.2.result := by
  simp only [notifyIfBusOff]; split <;> simp

@[simp] theorem notifyIfBusOff_inbox (new : BusState) (x : IsrState) : (notifyIfBusOff new x).2.inbox = x.2.inbox := by
  simp only [notifyIfBusOff]; split <;> simp

@[simp] theorem stateUpdate_params (x : IsrState) : (stateUpdate x).2.params = x.2.params := by
  simp only [stateUpdate]; split <;> simp

@[simp] theorem stateUpdate_attached (x : IsrState) : (stateUpdate x).2.attached = x.2.attached := by
  simp only [stateUpdate]; split <;> simp

@[simp] theorem stateUpdate_fault (x : IsrState) : (stateUpdate x).2.fault = x.2.fault := by
  simp only [stateUpdate]; split <;> simp

@[simp] theorem stateUpdate_refused (x : IsrState) : (stateUpdate x).2.refused = x.2.refused := by
  simp only [stateUpdate]; split <;> simp

@[simp] theorem stateUpdate_result (x : IsrState) : (stateUpdate x).2.result = x.2.result := by
  simp only [stateUpdate]; split <;> simp

@[simp] theorem stateUpdate_inbox (x : IsrState) : (stateUpdate x).2.inbox = x.2.inbox := by
  simp only [stateUpdate]; split <;> simp

@[simp] theorem stepArbitrationLost_params (x : IsrState) : (stepArbitrationLost x).2.params = x.2.params := by
  simp [stepArbitrationLost, editEf]

@[simp] theorem stepArbitrationLost_attached (x : IsrState) : (stepArbitrationLost x).2.attached = x.2.attached := by
  simp [stepArbitrationLost, editEf]

@[simp] theorem stepArbitrationLost_fault (x : IsrState) : (stepArbitrationLost x).2.fault = x.2.fault := by
  simp [stepArbitrationLost, editEf]

@[simp] theorem stepArbitrationLost_refused (x : IsrState) : (stepArbitrationLost x).2.refused = x.2.refused := by
  simp [stepArbitrationLost, editEf]

@[simp] theorem stepArbitrationLost_result (x : IsrState) : (stepArbitrationLost x).2.result = x.2.result := by
  simp [stepArbitrationLost, editEf]

@[simp] theorem stepArbitrationLost_inbox (x : IsrState) : (stepArbitrationLost x).2.inbox = x.2.inbox := by
  simp [stepArbitrationLost, editEf]

@[simp] theorem deliverEf_params (x : IsrState) : (deliverEf x).2.params = x.2.params := by
  unfold deliverEf; split <;> simp

@[simp] theorem deliverEf_attached (x : IsrState) : (deliverEf x).2.attached = x.2.attached := by
  unfold deliverEf; split <;> simp

@[simp] theorem deliverEf_fault (x : IsrState) : (deliverEf x).2.fault = x.2.fault := by
  unfold deliverEf; split <;> simp

@[simp] theorem deliverEf_refused (x : IsrState) : (deliverEf x).2.refused = x.2.refused := by
  unfold deliverEf; split <;> simp

@[simp] theorem deliverEf_result (x : IsrState) : (deliverEf x).2.result = x.2.result := by
  unfold deliverEf; split <;> simp

@[simp] theorem deliverEf_inbox (x : IsrState) : (deliverEf x).2.inbox = x.2.inbox := by
  unfold deliverEf; split <;> simp

@[simp] theorem isrSteps_params (p : Params) (x : IsrState) : (isrSteps p x).2.params = x.2.params := by
  have key : ∀ {n : Nat} {st : IsrState → IsrState} (_ : ∀ y, (st y).2.params = y.2.params) (y : IsrState),
      (whenFlag n st y).2.params = y.2.params := fun h y => by unfold whenFlag; split <;> simp [h]
  unfold isrSteps
  rw [key, stateUpdate_params, key, key, key, key, key, key] <;> intro y <;> simp

@[simp] theorem isrSteps_attached (p : Params) (x : IsrState) : (isrSteps p x).2.attached = x.2.attached := by
  have key : ∀ {n : Nat} {st : IsrState → IsrState} (_ : ∀ y, (st y).2.attached = y.2.attached) (y : IsrState),
      (whenFlag n st y).2.attached = y.2.attached := fun h y => by unfold whenFlag; split <;> simp [h]
  unfold isrSteps
  rw [key, stateUpdate_attached, key, key, key, key, key, key] <;> intro y <;> simp

@[simp] theorem isrSteps_fault (p : Params) (x : IsrState) : (isrSteps p x).2.fault = x.2.fault := by
  have key : ∀ {n : Nat} {st : IsrState → IsrState} (_ : ∀ y, (st y).2.fault = y.2.fault) (y : IsrState),
      (whenFlag n st y).2.fault = y.2.fault := fun h y => by unfold whenFlag; split <;> simp [h]
  unfold isrSteps
  rw [key, stateUpdate_fault, key, key, key, key, key, key] <;> intro y <;> simp

@[simp] theorem isrSteps_refused (p : Params) (x : IsrState) : (isrSteps p x).2.refused = x.2.refused := by
  have key : ∀ {n : Nat} {st : IsrState → IsrState} (_ : ∀ y, (st y).2.refused = y.2.refused) (y : IsrState),
      (whenFlag n st y).2.refused = y.2.refused := fun h y => by unfold whenFlag; split <;> simp [h]
  unfold isrSteps
  rw [key, stateUpdate_refused, key, key, key, key, key, key] <;> intro y <;> simp

@[simp] theorem isrSteps_result (p : Params) (x : IsrState) : (isrSteps p x).2.result = x.2.result := by
  have key : ∀ {n : Nat} {st : IsrState → IsrState} (_ : ∀ y, (st y).2.result = y.2.result) (y : IsrState),
      (whenFlag n st y).2.result = y.2.result := fun h y => by unfold whenFlag; split <;> simp [h]
  unfold isrSteps
  rw [key, stateUpdate_result, key, key, key, key, key, key] <;> intro y <;> simp

@[simp] theorem isrSteps_inbox (p : Params) (x : IsrState) : (isrSteps p x).2.inbox = x.2.inbox := by
  have key : ∀ {n : Nat} {st : IsrState → IsrState} (_ : ∀ y, (st y).2.inbox = y.2.inbox) (y : IsrState),
      (whenFlag n st y).2.inbox = y.2.inbox := fun h y => by unfold whenFlag; split <;> simp [h]
  unfold isrSteps
  rw [key, stateUpdate_inbox, key, key, key, key, key, key] <;> intro y <;> simp

end Sys2Proof.Machine
end

