-- ==== Sys2Proof/Tests/Slice0.lean ====
section
/-! SUPPORT. Tests: decoding by words written out from spec/30_encoding.md, one-step tests whose expected results are the
vectors of spec/95_test_vectors.md or follow from the rule named, an ill-formed term for each check of WellFormed, and a
witness for the hypotheses of each obligation. -/

namespace Sys2Proof.Tests

open Sys2Proof.Machine

set_option maxRecDepth 20000

/-! ### Small states -/

/-- CFG1 of 95_test_vectors.md. -/
def cfg1 : CanConfig := ⟨⟨4, 1, 5, 6, 4, false⟩, ⟨2, 1, 2, 3, 2, false⟩, 4000000, true, false⟩

/-- Answers of the host: every acquire and alloc ok, the clock 80 MHz. -/
def allOk : Answers := ⟨[true, true, true, true], [true, true, true, true], [80000000]⟩

/-- Every draw is 0, as the vectors take it. -/
def zeros : List Word := List.replicate 60 0

/-- The handle that start leaves. -/
def startedHandle : Handle :=
  ⟨.normal, .errorActive, 80000000, 0, 0, .zero, [], some cfg1, none, false⟩

/-- The device that start leaves with CFG1 (70 R332): MODE 0x19, filters all-pass, TDCO 13. -/
def startedDev : Device := { Device.powerOn with
  mode := ⟨true, false, false, true, true⟩
  idmask := .replicate 6 0x1FFFFFFF
  nbtp := 0x1030A
  dbtp := 0x24
  tdcEn := true
  tdco := 13
  rxfifoEn := true
  fdtxEn := true }

/-- started(CFG1) with the draws and answers of the vectors. -/
def started : State := { State.reset with
  dev := startedDev, attached := .live, handle := startedHandle, answers := allOk, supplied := zeros }

/-- A handle freshly attached and configured with CFG1. -/
def configured : State := { State.reset with
  attached := .live, handle := { Handle.fresh 80000000 with config := some cfg1 }, answers := allOk, supplied := zeros }

/-- `started` with other device values. -/
def withDev (f : Device → Device) : State := { started with dev := f startedDev }

/-- `started` with INT flags, a bus state and other device values. -/
def flagged (int : BitVec 15) (b : BusState) (f : Device → Device) : State :=
  { started with dev := f { startedDev with int := int }, handle := { startedHandle with busState := b } }

/-- The outcome is a next state with the property. -/
def nextWith (o : Host.Outcome State Fault Refusal) (f : State → Bool) : Bool :=
  match o with
  | .next t => f t
  | .fault _ => false
  | .refused _ => false

/-- The outcome is that refusal. -/
def refusedWith (o : Host.Outcome State Fault Refusal) (r : Refusal) : Bool :=
  match o with
  | .next _ => false
  | .fault _ => false
  | .refused r' => r' == r

/-- The state with one request in its inbox. -/
def asking (s : State) (who : Issuer) (d : BitVec 16) (ws : List Word) : State := { s with inbox := [⟨who, d, ws⟩] }

/-- A write access event. -/
def w (off : Nat) (v : Word) : Event := .access .write off v

/-- A read access event. -/
def r (off : Nat) (v : Word) : Event := .access .read off v

/-- TX-1 of the vectors. -/
def tx1 : Frame := ⟨0x123, false, false, false, false, 2, [0x11, 0x22]⟩

/-- TX-2 of the vectors. -/
def tx2 : Frame := ⟨0x1ABCDEF0, true, false, true, true, 12, [0, 1, 2, 3, 4, 5, 6, 7, 8, 9, 10, 11]⟩

/-- TX-3 of the vectors. -/
def tx3 : Frame := ⟨0x7FF, false, true, false, false, 4, []⟩

/-- The entry of RO-11: TX-1 as the FIFO holds it. -/
def entry : List Word := [2, 0x123, 0xDEADBEEF, 0x2211] ++ List.replicate 15 0

/-- A capture of the staging registers. -/
def snapA : Snapshot := ⟨2, 0x123, .replicate 16 0xA⟩

/-- The all-zero timing record. -/
def zeroTiming : BitTiming := ⟨0, 0, 0, 0, 0, false⟩

/-- A timing record whose prescaler no operand word holds. -/
def wideTiming : BitTiming := ⟨2 ^ 32, 1, 1, 1, 1, false⟩

/-! ### Well-formedness -/

/-- Each check refuses an ill-formed term: a natural past 32 bits in either timing, a length past 32 bits, a read port whose
offset an earlier port has. -/
theorem test_ill_formed_refused :
    WellFormed .p0 (.opConfigure { cfg1 with nominal := wideTiming }) = false
      ∧ WellFormed .p0 (.opConfigure { cfg1 with data := wideTiming }) = false
      ∧ WellFormed .p0 (.opEncodeNominal wideTiming) = false ∧ WellFormed .p0 (.opEncodeData wideTiming) = false
      ∧ WellFormed .p0 (.opEncodeNominal { cfg1.nominal with syncJumpWidth := 2 ^ 32 }) = false
      ∧ WellFormed .p0 (.opEncodeNominal { cfg1.nominal with propSeg := 2 ^ 32 }) = false
      ∧ WellFormed .p0 (.opEncodeNominal { cfg1.nominal with phaseSeg1 := 2 ^ 32 }) = false
      ∧ WellFormed .p0 (.opEncodeNominal { cfg1.nominal with phaseSeg2 := 2 ^ 32 }) = false
      ∧ WellFormed .p0 (.opTransmit { tx1 with length := 2 ^ 32 }) = false
      ∧ WellFormed .p0 (.rdRxport 1) = false ∧ WellFormed .p0 (.wrRxport 18 0) = false := by decide

/-- The same terms within the bounds are well formed. -/
theorem test_well_formed :
    WellFormed .p0 (.opConfigure cfg1) = true ∧ WellFormed .p0 (.opTransmit tx2) = true
      ∧ WellFormed .p0 (.opEncodeNominal ⟨2 ^ 32 - 1, 0, 0, 0, 0, true⟩) = true ∧ WellFormed .p0 (.rdRxport 0) = true := by
  decide

/-! ### Decoding -/

/-- Do these descriptors, followed by operand words of zeros, decode to these instructions? -/
def decodesTo (rows : List (Nat × Instr)) : Bool := rows.all fun x => decodeTableWord 16 x.1 == some x.2

/-- 30 R92 under P0: reads of the control and status registers. -/
theorem test_decode_reads_control :
    decodesTo [
      (0x0000, .rdMode), (0x0004, .rdCmd), (0x0008, .rdState), (0x000C, .rdInt), (0x0010, .rdIntMask), 
      (0x0028, .rdLostarb), (0x002C, .rdErrcode), (0x0034, .rdRxerrcnt), (0x0038, .rdTxerrcnt), 
      (0x0100, .rdNbtp), (0x0104, .rdDbtp), (0x0108, .rdTdcr), (0x0114, .rdFdtxCtrl), 
      (0x0118, .rdRxfifoCtrl)] = true := by
  decide

/-- 30 R92 under P0: reads of the filter pairs. -/
theorem test_decode_reads_filters :
    decodesTo [
      (0x0120, .rdIdcode0), (0x0124, .rdIdmask0), (0x0128, .rdIdcode1), (0x012C, .rdIdmask1), 
      (0x0130, .rdIdcode2), (0x0134, .rdIdmask2), (0x0138, .rdIdcode3), (0x013C, .rdIdmask3), 
      (0x0140, .rdIdcode4), (0x0144, .rdIdmask4), (0x0148, .rdIdcode5), (0x014C, .rdIdmask5)] = true := by
  decide

/-- 30 R92 under P0: reads of the staging registers and of RXPORT. -/
theorem test_decode_reads_staging :
    decodesTo [
      (0x0200, .rdTxfic), (0x0204, .rdTxid), (0x0208, .rdTxdat0), (0x020C, .rdTxdat1), (0x0210, .rdTxdat2), 
      (0x0214, .rdTxdat3), (0x0218, .rdTxdat4), (0x021C, .rdTxdat5), (0x0220, .rdTxdat6), 
      (0x0224, .rdTxdat7), (0x0228, .rdTxdat8), (0x022C, .rdTxdat9), (0x0230, .rdTxdat10), 
      (0x0234, .rdTxdat11), (0x0238, .rdTxdat12), (0x023C, .rdTxdat13), (0x0240, .rdTxdat14), 
      (0x0244, .rdTxdat15), (0x0400, .rdRxport 0)] = true := by
  decide

/-- 30 R92 under P0: writes of the control and status registers. -/
theorem test_decode_writes_control :
    decodesTo [
      (0x4000, .wrMode 0), (0x4004, .wrCmd 0), (0x4008, .wrState 0), (0x400C, .wrInt 0), 
      (0x4010, .wrIntMask 0), (0x4028, .wrLostarb 0), (0x402C, .wrErrcode 0), (0x4034, .wrRxerrcnt 0), 
      (0x4038, .wrTxerrcnt 0), (0x4100, .wrNbtp 0), (0x4104, .wrDbtp 0), (0x4108, .wrTdcr 0), 
      (0x4114, .wrFdtxCtrl 0), (0x4118, .wrRxfifoCtrl 0)] = true := by
  decide

/-- 30 R92 under P0: writes of the filter pairs. -/
theorem test_decode_writes_filters :
    decodesTo [
      (0x4120, .wrIdcode0 0), (0x4124, .wrIdmask0 0), (0x4128, .wrIdcode1 0), (0x412C, .wrIdmask1 0), 
      (0x4130, .wrIdcode2 0), (0x4134, .wrIdmask2 0), (0x4138, .wrIdcode3 0), (0x413C, .wrIdmask3 0), 
      (0x4140, .wrIdcode4 0), (0x4144, .wrIdmask4 0), (0x4148, .wrIdcode5 0), (0x414C, .wrIdmask5 0)] = true := by
  decide

/-- 30 R92 under P0: writes of the staging registers and of RXPORT. -/
theorem test_decode_writes_staging :
    decodesTo [
      (0x4200, .wrTxfic 0), (0x4204, .wrTxid 0), (0x4208, .wrTxdat0 0), (0x420C, .wrTxdat1 0), 
      (0x4210, .wrTxdat2 0), (0x4214, .wrTxdat3 0), (0x4218, .wrTxdat4 0), (0x421C, .wrTxdat5 0), 
      (0x4220, .wrTxdat6 0), (0x4224, .wrTxdat7 0), (0x4228, .wrTxdat8 0), (0x422C, .wrTxdat9 0), 
      (0x4230, .wrTxdat10 0), (0x4234, .wrTxdat11 0), (0x4238, .wrTxdat12 0), (0x423C, .wrTxdat13 0), 
      (0x4240, .wrTxdat14 0), (0x4244, .wrTxdat15 0), (0x4400, .wrRxport 0 0)] = true := by
  decide

/-- 30 R93: the core operations, with operand words of zeros. -/
theorem test_decode_core_ops :
    decodesTo [
      (0x8001, .opAttach), (0x8002, .opConfigure ⟨zeroTiming, zeroTiming, 0, false, false⟩), 
      (0x8003, .opStart), (0x8004, .opStop), (0x8005, .opTransmit ⟨0, false, false, false, false, 0, []⟩), 
      (0x8006, .opIsr), (0x8007, .opGetBerrCounter), (0x8008, .opEncodeNominal zeroTiming), 
      (0x8009, .opEncodeData zeroTiming), (0x800A, .opComputeTdc 0 0), (0x800B, .opEnterReset), 
      (0x800C, .opEnterNormal), (0x800D, .opReceive), (0x800E, .opDetach)] = true := by
  decide

/-- 30 R94: the device events, with operand words of zeros. -/
theorem test_decode_events :
    decodesTo [
      (0xC000, .evResetPulse), (0xC001, .evRxArrive (.replicate 19 0) false), (0xC002, .evRxReassert), 
      (0xC003, .evTxComplete .slot0), (0xC004, .evTxWithdraw .slot0), (0xC005, .evBusError 0), 
      (0xC006, .evArbLost 0), (0xC007, .evErrState 0 0 false false false false), (0xC008, .evOtherFlag 0)] = true := by
  decide

/-- 30 R90: operand bits count on from the descriptor's; a write's value and a transmitted frame (log 6). -/
theorem test_decode_operands :
    decodeTableWord 48 0x1FFFFFFF4124 = some (.wrIdmask0 0x1FFFFFFF)
      ∧ decodeTableWord 48 0x000000014004 = some (.wrCmd 1)
      ∧ decodeRequest .p0 0x8005 [0x123, 0, 2, 2, 0x2211] = .ok (.opTransmit tx1)
      ∧ decodeRequest .p0 0xC008 [7] = .ok (.evOtherFlag 7)
      ∧ decodeRequest .p0 0xC003 [1] = .ok (.evTxComplete .slot1)
      ∧ decodeRequest .p0 0x8008 [4, 1, 5, 6, 4, 0] = .ok (.opEncodeNominal cfg1.nominal) := by decide

/-- DE-7 to DE-11, DE-14 (30 R111): what names no instruction is rejected by name. -/
theorem test_decode_rejects :
    decodeRequest .p0 0x0002 [] = .error (.misaligned 2) ∧ decodeRequest .p0 0x0FFC [] = .error (.noRegister 0xFFC)
      ∧ decodeRequest .p0 0x1000 [] = .error .zNonzero ∧ decodeRequest .p0 0x8106 [] = .error .z2Nonzero
      ∧ decodeRequest .p0 0x8000 [] = .error (.unassignedOp 0) ∧ decodeRequest .p0 0x800F [] = .error (.unassignedOp 15)
      ∧ decodeRequest .p0 0xC009 [] = .error (.unassignedEvent 9)
      ∧ decodeRequest .p0 0x4000 [] = .error .shortOperands ∧ decodeRequest .p0 0x0000 [0] = .error .trailingOperands
      ∧ decodeRequest .p0 0xC003 [2] = .error .badOperand := by decide

/-- Encoding then decoding gives back a frame, a configuration and an arrival. -/
theorem test_encode_round_trip :
    decodeRequest .p0 (encode .p0 (.opTransmit tx2)).1 (encode .p0 (.opTransmit tx2)).2 = .ok (.opTransmit tx2)
      ∧ decodeRequest .p0 (encode .p0 (.opConfigure cfg1)).1 (encode .p0 (.opConfigure cfg1)).2 = .ok (.opConfigure cfg1) := by
  decide

/-! ### Taking a request -/

/-- DE-12, DE-13 (30 R111): the host names a core-only operation or the reset pulse: refused with the mark, whatever operand
words stand after it. -/
theorem test_host_core_only_refused :
    nextWith (step (asking started .host 0x800B [])) (fun t => t.refused && t.result.code == 19) = true
      ∧ nextWith (step (asking started .host 0xC000 [])) (fun t => t.refused && t.dev == startedDev) = true
      ∧ nextWith (step (asking started .host 0x800B [7])) (fun t => t.refused && t.handle.refused && t.result.code == 19) = true
      ∧ nextWith (step (asking started .device 0x1000 [])) (fun t => t.refused && t.result.code == 19) = true := by decide

/-- 60 R321, R323: no second operation while one runs, no bus-engine step by the host; log 6: a malformed operand. -/
theorem test_requests_without_a_move :
    refusedWith (step (asking { started with core := .running .start 3 } .host 0x8006 [])) .coreBusy = true
      ∧ refusedWith (step (asking started .host 0xC002 [])) .noMove = true
      ∧ refusedWith (step (asking started .device 0xC003 [2])) .malformedOperands = true := by decide

/-- 20 R75, 10 R51: an unmapped core access is recorded, and the next step stops. -/
theorem test_unmapped_core_access :
    nextWith (step (asking started .core 0x0FFC []))
        (fun t => t.fault == some 0xFFC && t.result.code == 32
          && (match step t with | .fault f => f == .unmappedAccess 0xFFC | .next _ => false | .refused _ => false)) = true := by
  decide

/-- A placed table word is the next instruction, and with nothing requested the machine waits (log 7). -/
theorem test_fetch_word :
    nextWith (step (State.reset.withFetchWord 16 0x0034)) (fun t => t.result == .word 0) = true
      ∧ nextWith (step (State.reset.withFetchWord 48 0xABCD4200)) (fun t => t.dev.txfic == 0xABCD) = true
      ∧ nextWith (step (State.reset.withFetchWord 16 0xC002)) (fun t => t == State.reset) = true
      ∧ nextWith (step State.reset) (fun t => t == State.reset) = true := by decide

/-! ### Register operations -/

/-- RO-1: req = (1, 0) reads as 0x1. -/
theorem test_rd_cmd :
    nextWith (execRdCmd (withDev fun d => { d with req0 := true })) (fun t => t.result == .word 1) = true := by decide

/-- RO-2, RO-4: the written bit requests its slot with the staging registers; the other slot stays. -/
theorem test_wr_cmd_requests :
    nextWith (execWrCmd 2 (withDev fun d => { d with req0 := true, slot0 := .queued snapA [], txfic := 5, txid := 6 }))
        (fun t => t.dev.req0 && t.dev.req1 && t.dev.slot0 == .queued snapA []
          && t.dev.slot1 == .queued ⟨5, 6, .replicate 16 0⟩ []) = true
      ∧ nextWith (execWrCmd 3 started) (fun t => t.dev.req0 && t.dev.req1 && t.dev.slot0 == t.dev.slot1) = true := by decide

/-- RO-3: a zero write clears both request bits under clears_all and none under no_effect; the slots stay. -/
theorem test_wr_cmd_zero :
    nextWith (execWrCmd 0 (withDev fun d => { d with req0 := true, req1 := true, slot0 := .queued snapA [] }))
        (fun t => !t.dev.req0 && !t.dev.req1 && t.dev.slot0 == .queued snapA []) = true
      ∧ nextWith (execWrCmd 0 { withDev (fun d => { d with req0 := true, req1 := true }) with
          params := { Params.p0 with cmdZeroWrite := .noEffect } }) (fun t => t.dev.req0 && t.dev.req1) = true := by decide

/-- RO-5: a read of INT answers the flags and clears none. -/
theorem test_rd_int :
    nextWith (execRdInt (withDev fun d => { d with int := 3 })) (fun t => t.result == .word 3 && t.dev.int == 3) = true := by
  decide

/-- RO-6, RO-7: write 1 to clear; BUS_ERR's bit invalidates ERRCODE. -/
theorem test_wr_int :
    nextWith (execWrInt 3 (withDev fun d => { d with int := 0x13, errcodeValid := true }))
        (fun t => t.dev.int == 0x10 && t.dev.errcodeValid) = true
      ∧ nextWith (execWrInt 0x10 (withDev fun d => { d with int := 0x10, errcodeValid := true }))
        (fun t => t.dev.int == 0 && !t.dev.errcodeValid) = true := by decide

/-- RO-8, RO-9: ERRCODE while valid, and a draw (here 7) once acknowledged; with the parameter false it stays readable. -/
theorem test_rd_errcode :
    nextWith (execRdErrcode (withDev fun d => { d with errcode := 0x50012, errcodeValid := true }))
        (fun t => t.result == .word 0x50012) = true
      ∧ nextWith (execRdErrcode { withDev (fun d => { d with errcode := 0x50012 }) with supplied := [7] })
        (fun t => t.result == .word 7) = true
      ∧ nextWith (execRdErrcode { withDev (fun d => { d with errcode := 0x50012 }) with
          params := { Params.p0 with errcodeAckInvalidates := false } }) (fun t => t.result == .word 0x50012) = true := by decide

/-- RO-10: STATE = 0x10 reads so and ignores a write. -/
theorem test_state_read_only :
    nextWith (execRdState (withDev fun d => { d with errwarn := true })) (fun t => t.result == .word 0x10) = true
      ∧ nextWith (execWrState 0xFFFFFFFF (withDev fun d => { d with errwarn := true }))
        (fun t => t.dev.errwarn && !t.dev.busoff) = true := by decide

/-- RO-11: a read of RXPORT answers the head word and takes it. -/
theorem test_rd_rxport :
    nextWith (execRdRxport 0 (withDev fun d => { d with rxfifo := [entry] }))
        (fun t => t.result == .word 2 && t.dev.rxfifo == [entry.tail]) = true
      ∧ nextWith (execRdRxport 5 (withDev fun d => { d with rxfifo := [[9], entry] }))
        (fun t => t.result == .word 9 && t.dev.rxfifo == [entry]) = true := by decide

/-- RO-12: with the FIFO empty the read answers a draw (here 7) and takes nothing. -/
theorem test_rd_rxport_empty :
    nextWith (execRdRxport 0 { started with supplied := [7] }) (fun t => t.result == .word 7 && t.dev == startedDev) = true := by
  decide

/-- RO-13: TXFIC stores all 32 bits. -/
theorem test_wr_txfic :
    nextWith (execWrTxfic 0xFFFFFFFF started) (fun t => t.dev.txfic == 0xFFFFFFFF) = true
      ∧ nextWith (execRdTxfic (withDev fun d => { d with txfic := 0xFFFFFFFF })) (fun t => t.result == .word 0xFFFFFFFF) = true := by
  decide

/-- RO-14: what a reset pulse leaves; the handle stays. -/
theorem test_reset_pulse :
    nextWith (execEvResetPulse (withDev fun d => { d with
        rxfifo := [entry, entry, entry], int := 4, req0 := true, slot1 := .sent snapA, rxerrcnt := 9 }))
      (fun t => t.dev.rxfifo == [] && t.dev.int == 0 && !t.dev.req0 && t.dev.slot1 == .idle && t.dev.rxerrcnt == 0
        && !t.dev.tdcEn && t.handle == startedHandle && t.trace == [.assertReset, .deassertReset]) = true := by decide

/-- RO-16, RO-17: the interrupt line. -/
theorem test_irq :
    Device.irq { startedDev with int := 0x10, intMask := 0xFFFFFFEF } = true
      ∧ Device.irq { startedDev with int := 0x10, intMask := 0xFFFFFFFF } = false
      ∧ Device.irq { startedDev with int := 0x80, intMask := 0 } = true := by decide

/-- RO-18: MODE = 0x18, then 0x19. -/
theorem test_mode :
    nextWith (execRdMode (withDev fun d => { d with mode := ⟨false, false, false, true, true⟩ }))
        (fun t => t.result == .word 0x18) = true
      ∧ nextWith (execWrMode 0x19 (withDev fun d => { d with mode := ⟨false, false, false, true, true⟩ }))
        (fun t => t.dev.mode == ⟨true, false, false, true, true⟩) = true := by decide

/-- 40 R156, R157, 30 R105: TDCR 0x1B is EN with offset 13; RXFIFO_CTRL and FDTX_CTRL keep bit 0 only (40 R158 to R161). -/
theorem test_tdcr_and_enables :
    nextWith (execRdTdcr started) (fun t => t.result == .word 0x1B) = true
      ∧ nextWith (execWrTdcr 0x7E started) (fun t => !t.dev.tdcEn && t.dev.tdco == 63) = true
      ∧ nextWith (execWrRxfifoCtrl 2 started) (fun t => !t.dev.rxfifoEn) = true
      ∧ nextWith (execWrFdtxCtrl 3 started) (fun t => t.dev.fdtxEn) = true := by decide

/-- 40 R152 to R155, 10 R43: NBTP reads whole; DBTP's RSV bits read as a draw (here all ones). -/
theorem test_timing_registers :
    nextWith (execRdNbtp { started with supplied := [0xFFFFFFFF] }) (fun t => t.result == .word 0x1030A) = true
      ∧ nextWith (execRdDbtp { started with supplied := [0xFFFFFFFF] }) (fun t => t.result == .word 0xFFC00024) = true := by
  decide

/-- 40 R148 to R151, R166, R167: an indexed register is written alone; a write of RXPORT has no effect (R169). -/
theorem test_indexed_registers :
    nextWith (execWrIdcode5 7 started) (fun t => t.dev.idcode == #v[0, 0, 0, 0, 0, 7] && t.dev.idmask == startedDev.idmask) = true
      ∧ nextWith (execWrTxdat15 7 started) (fun t => t.dev.txdat[15] == 7 && t.dev.txdat[14] == 0) = true
      ∧ nextWith (execWrRxport 3 7 started) (fun t => t.dev == startedDev) = true := by decide

/-! ### Bus-engine events -/

/-- 46 R260: queued with RX_FINISH while there is room, dropped with RX_BUF_OV at the depth, filtered without a flag. -/
theorem test_rx_arrive :
    nextWith (execEvRxArrive (.replicate 19 1) false (withDev fun d => { d with rxfifo := [entry, entry, entry] }))
        (fun t => t.dev.rxfifo == [entry, entry, entry, List.replicate 19 1] && t.dev.int == 2
          && t.trace == [.rxFromBus (.replicate 19 1)]) = true
      ∧ nextWith (execEvRxArrive (.replicate 19 1) false (withDev fun d => { d with rxfifo := [entry, entry, entry, entry] }))
        (fun t => t.dev.rxfifo.length == 4 && t.dev.int == 4) = true
      ∧ nextWith (execEvRxArrive (.replicate 19 1) false (withDev fun d => { d with idmask := .replicate 6 0 }))
        (fun t => t.dev.rxfifo == [] && t.dev.int == 0 && t.trace.length == 1) = true := by decide

/-- 46 R262: the captured frame is sent, TX_FINISH is set and the request bit stays. -/
theorem test_tx_complete :
    nextWith (execEvTxComplete .slot1 (withDev fun d => { d with req1 := true, slot1 := .queued snapA [] }))
      (fun t => t.dev.slot1 == .sent snapA && t.dev.req1 && t.dev.int == 1 && t.trace == [.busTx .slot1 snapA]) = true := by
  decide

/-- 40 R133, 93 I15: a slot requested again while Queued holds the new snapshot; the bus engine may then send the old one
first and the new one after it, or the old one alone. -/
theorem test_requested_again :
    nextWith (execWrCmd 1 { withDev (fun d => { d with slot0 := .queued snapA [], txfic := 5, txid := 6 }) with
        picks := ⟨[⟨1, true⟩, ⟨0, false⟩], 0⟩ }) (fun t =>
      t.dev.slot0 == .queued ⟨5, 6, .replicate 16 0⟩ [snapA]
        && nextWith (execEvTxComplete .slot0 t) (fun u => u.dev.slot0 == .queued ⟨5, 6, .replicate 16 0⟩ []
          && nextWith (execEvTxComplete .slot0 u) (fun v => v.dev.slot0 == .sent ⟨5, 6, .replicate 16 0⟩
            && v.trace == [w 4 1, .busTx .slot0 snapA, .busTx .slot0 ⟨5, 6, .replicate 16 0⟩]))
        && nextWith (execEvTxComplete .slot0 { t with picks := ⟨[⟨1, false⟩], 0⟩ }) (fun u => u.dev.slot0 == .sent snapA)) = true := by
  decide

/-- 46 R263: a queued slot whose request bit is 0 is withdrawn, even with WORK = 0; one whose bit is 1 is not. -/
theorem test_tx_withdraw :
    nextWith (execEvTxWithdraw .slot0 (withDev fun d => { d with slot0 := .queued snapA [], mode := ⟨false, false, false, false, false⟩ }))
        (fun t => t.dev.slot0 == .idle) = true
      ∧ nextWith (execEvTxWithdraw .slot0 (withDev fun d => { d with slot0 := .queued snapA [], req0 := true }))
        (fun t => t.dev.slot0 == .queued snapA []) = true := by decide

/-- 46 R261, R264 to R267: the flags and what they come with. -/
theorem test_error_events :
    nextWith (execEvBusError 0x50012 started) (fun t => t.dev.errcode == 0x50012 && t.dev.errcodeValid && t.dev.int == 0x10) = true
      ∧ nextWith (execEvArbLost 0x1234 (withDev fun d => { d with slot0 := .queued snapA [] }))
        (fun t => t.dev.lostarb == 0x1234 && t.dev.int == 0x40) = true
      ∧ nextWith (execEvErrState 5 130 true false true true started)
        (fun t => t.dev.rxerrcnt == 5 && t.dev.txerrcnt == 130 && t.dev.errwarn && !t.dev.busoff && t.dev.int == 0x28) = true
      ∧ nextWith (execEvOtherFlag 7 started) (fun t => t.dev.int == 0x4000) = true
      ∧ nextWith (execEvRxReassert (withDev fun d => { d with rxfifo := [entry] })) (fun t => t.dev.int == 2) = true := by decide

/-- 46: an event whose condition is false is not taken (log 13). -/
theorem test_events_not_enabled :
    nextWith (execEvArbLost 0x1234 started) (fun t => t == started) = true
      ∧ nextWith (execEvRxReassert started) (fun t => t == started) = true
      ∧ nextWith (execEvBusError 1 configured) (fun t => t == configured) = true := by decide

/-! ### Bit timing -/

/-- BT-1 to BT-3. -/
theorem test_encode_nominal :
    nextWith (execOpEncodeNominal ⟨4, 1, 5, 6, 4, false⟩ started) (fun t => t.result == .encoded 0x1030A) = true
      ∧ encodeNominal .p0 ⟨2, 128, 64, 64, 128, true⟩ = 0xFF007F7F ∧ encodeNominal .p0 ⟨512, 1, 1, 0, 1, false⟩ = 0xFF0000
      ∧ decodeNominal .p0 0x1030A = ⟨4, 1, 11, 4, false⟩ := by decide

/-- BT-4, BT-5, BT-10. -/
theorem test_encode_data :
    nextWith (execOpEncodeData ⟨2, 1, 2, 3, 2, false⟩ started) (fun t => t.result == .encoded 0x24) = true
      ∧ encodeData .p0 ⟨512, 16, 16, 16, 16, true⟩ = 0x3FFFFF ∧ decodeData .p0 0x3FFFFF = ⟨512, 16, 32, 16, true⟩
      ∧ nextWith (execOpEncodeData ⟨2, 17, 2, 3, 2, false⟩ started) (fun t => t.refused && t.result.code == 18) = true := by decide

/-- BT-6 to BT-9, BT-11, BT-12, and the bounds where they meet. -/
theorem test_timing_validity :
    validNominal ⟨3, 1, 5, 6, 4, false⟩ = false ∧ validNominal ⟨514, 1, 5, 6, 4, false⟩ = false
      ∧ validNominal ⟨4, 1, 0, 0, 4, false⟩ = false ∧ validNominal ⟨4, 1, 64, 65, 4, false⟩ = false
      ∧ validNominal ⟨0, 1, 5, 6, 4, false⟩ = false ∧ validNominal ⟨512, 128, 64, 64, 128, false⟩ = true
      ∧ validData ⟨2, 1, 16, 17, 2, false⟩ = false ∧ validData ⟨512, 16, 16, 16, 16, false⟩ = true
      ∧ validNominal ⟨4, 129, 5, 6, 4, false⟩ = false ∧ validNominal ⟨4, 1, 5, 6, 129, false⟩ = false
      ∧ validData ⟨2, 1, 2, 3, 17, false⟩ = false ∧ validNominal ⟨4, 0, 5, 6, 4, false⟩ = false
      ∧ validNominal ⟨4, 1, 5, 6, 0, false⟩ = false := by decide

/-- TDC-1 to TDC-8. -/
theorem test_compute_tdc :
    [(80000000, 2200000), (80000000, 2200001), (80000000, 4000000), (80000000, 5000000), (300000000, 2500000),
      (1000000, 5000000), (80000000, 8000000), (80000000, 0)].map (fun x => computeTdc x.1 x.2)
      = [none, some 24, some 13, some 10, some 63, some 0, some 6, none]
      ∧ nextWith (execOpComputeTdc 80000000 4000000 started) (fun t => t.result == .tdc (some 13)) = true := by decide

/-! ### Length codes, frames -/

/-- DL-1 to DL-6. -/
theorem test_length_codes :
    [0, 1, 7, 8, 9, 12, 16, 20, 24, 32, 48, 64].map len2dlc
      = [some 0, some 1, some 7, some 8, none, some 9, some 10, some 11, some 12, some 13, some 14, some 15]
      ∧ [9, 10, 11, 12, 13, 14, 15].map (dlc2len true) = [12, 16, 20, 24, 32, 48, 64]
      ∧ dlc2len false 13 = 8 ∧ dlc2len false 8 = 8 ∧ dlc2len false 7 = 7 := by decide

/-- TX-1 to TX-3, TX-6: the words staged. -/
theorem test_frame_words :
    idWord tx1 = 0x123 ∧ dlcWord tx1 = 2 ∧ payloadWords tx1 = [(0, 0x2211)]
      ∧ idWord tx2 = 0x1ABCDEF0 ∧ dlcWord tx2 = 0xB9
      ∧ payloadWords tx2 = [(0, 0x03020100), (1, 0x07060504), (2, 0x0B0A0908)]
      ∧ idWord tx3 = 0x7FF ∧ dlcWord tx3 = 0x44 ∧ payloadWords tx3 = [(0, 0)]
      ∧ payloadWords ⟨1, false, false, false, false, 5, [1, 2, 3, 4, 5]⟩ = [(0, 0x04030201), (1, 5)] := by decide

/-- TX-7 to TX-12: what transmit refuses. -/
theorem test_malformed_frames :
    [⟨1, false, false, false, false, 12, List.replicate 12 0⟩, ⟨1, false, false, true, false, 13, List.replicate 13 0⟩,
      ⟨1, false, true, true, false, 1, []⟩, ⟨1, false, false, false, true, 1, [0]⟩, ⟨0x800, false, false, false, false, 1, [0]⟩,
      ⟨1, false, false, false, false, 2, [0, 0, 0]⟩, ⟨0x20000000, true, false, false, false, 0, []⟩,
      ⟨1, false, true, false, false, 1, [0]⟩].map wellFormedFrame = List.replicate 8 false
      ∧ wellFormedFrame tx1 = true ∧ wellFormedFrame tx2 = true ∧ wellFormedFrame tx3 = true := by decide

/-- RX-1 to RX-7, RT-1 to RT-3. -/
theorem test_decode_frame :
    (decodeFrame 0xB9 0xFFFFFFFF []).id = 0x1FFFFFFF ∧ (decodeFrame 0xB9 0xFFFFFFFF []).length = 12
      ∧ decodeFrame 2 0xFFFFF123 [0x2211] = tx1 ∧ decodeFrame 0x44 0x7FF [1, 2] = tx3
      ∧ decodeFrame 0x18 1 [0x04030201, 0x08070605] = ⟨1, false, false, false, false, 8, [1, 2, 3, 4, 5, 6, 7, 8]⟩
      ∧ (decodeFrame 0xD 1 []).length = 8 ∧ decodeFrame 0x69 1 [] = ⟨1, false, true, true, false, 12, []⟩
      ∧ decodeFrame 0xFFFFFF02 0x123 [0x2211] = tx1
      ∧ decodeFrame 0xB9 0x1ABCDEF0 [0x03020100, 0x07060504, 0x0B0A0908, 0xFFFFFFFF] = tx2 := by decide

/-! ### Mode control, start and stop -/

/-- MC-1, 42 R196. -/
theorem test_configure :
    nextWith (execOpConfigure { cfg1 with nominal := ⟨3, 1, 5, 6, 4, false⟩ } started)
        (fun t => t.result == .configError && t.handle == startedHandle && !t.refused) = true
      ∧ nextWith (execOpConfigure { cfg1 with fd := false } configured)
        (fun t => t.result == .ok && t.handle.config == some { cfg1 with fd := false }) = true := by decide

/-- P1 of the vectors, its start: the accesses in order. -/
theorem test_start_trace :
    nextWith (execOpStart configured) (fun t => t.trace == [.acquire true, .assertReset, .deassertReset, w 0 0, w 0x10 0,
      w 0x120 0, w 0x124 0x1FFFFFFF, w 0x128 0, w 0x12C 0x1FFFFFFF, w 0x130 0, w 0x134 0x1FFFFFFF, w 0x138 0,
      w 0x13C 0x1FFFFFFF, w 0x140 0, w 0x144 0x1FFFFFFF, w 0x148 0, w 0x14C 0x1FFFFFFF, w 0x118 1, w 0x114 1, r 0 0, w 0 0x10,
      r 0 0x10, w 0 0x18, w 0x100 0x1030A, w 0x104 0x24, w 0x108 0x1B, r 0 0x18, w 0 0x19, .release]) = true := by decide

/-- P1: what start leaves. -/
theorem test_start_state :
    nextWith (execOpStart configured) (fun t => t.dev == startedDev && t.handle == startedHandle && t.result == .ok) = true := by
  decide

/-- MC-2, MC-3: start turned away. -/
theorem test_start_turned_away :
    nextWith (execOpStart { configured with answers := ⟨[false], [], []⟩ })
        (fun t => t.result == .resourceError && t.trace == [.acquire false] && t.dev == configured.dev
          && t.handle == configured.handle) = true
      ∧ nextWith (execOpStart { configured with handle := Handle.fresh 0 })
        (fun t => t.refused && t.result.code == 16 && t.trace == []) = true := by decide

/-- P4, its stop: the trace and the state. -/
theorem test_stop :
    nextWith (execOpStop started) (fun t =>
      t.trace == [.acquire true, .assertReset, .deassertReset, w 0 0, w 0x10 0xFFFFFFFF, .release]
        && t.handle.busState == .stopped && t.handle.mode == .reset && t.dev.intMask == 0xFFFFFFFF && !t.dev.mode.work) = true := by
  decide

/-- MC-4. -/
theorem test_get_berr_counter :
    nextWith (execOpGetBerrCounter (withDev fun d => { d with rxerrcnt := 5, txerrcnt := 130 })) (fun t =>
      t.result == .berr 130 5 && t.trace == [.acquire true, r 0x34 5, r 0x38 130, .release] && t.handle == startedHandle) = true := by
  decide

/-- MC-10, and 42 R197 on a handle that exists. -/
theorem test_attach :
    nextWith (execOpAttach { State.reset with answers := allOk }) (fun t =>
        t.handle == Handle.fresh 80000000 && t.attached == .live && t.trace == []) = true
      ∧ nextWith (execOpAttach started) (fun t => t.refused && t.result.code == 20
        && t.handle == { startedHandle with refused := true }) = true := by
  decide

/-- 60 R300 code 21, 10 R56: an operation before attach is refused, the pure functions too, and the handle attach then makes
has no mark, while the state keeps its own. -/
theorem test_refused_before_attach :
    nextWith (execOpEncodeNominal cfg1.nominal .reset) (fun t => t.refused && t.result.code == 21
        && nextWith (execOpAttach t) (fun u => u.refused && !u.handle.refused && u.handle.fault.isNone)) = true
      ∧ nextWith (execOpEncodeData cfg1.data .reset) (fun t => t.result.code == 21) = true
      ∧ nextWith (execOpComputeTdc 80000000 4000000 .reset) (fun t => t.result.code == 21) = true := by decide

/-- MC-8: detach makes no access, and then start is refused. -/
theorem test_detach :
    nextWith (execOpDetach started) (fun t => t.trace == [] && t.result == .ok
      && nextWith (execOpStart t) (fun u => u.refused && u.result.code == 21 && u.trace == [])) = true := by decide

/-- 00 R5, 10 R54, 46 R268: between the pulse and the write of MODE a bus-engine step is taken when WORK is drawn 1. -/
theorem test_bus_step_before_mode_write :
    nextWith (execOpEnterReset { started with
        supplied := List.replicate 60 0xFFFFFFFF, schedule := [[], [.busError 1, .txWithdraw .slot0], [.otherFlag 1]] })
      (fun t => t.dev.intFlag t.params.intBusErr && t.dev.errcodeValid && t.dev.mode == ⟨false, false, false, false, false⟩
        && t.schedule == [[.otherFlag 1]] && t.trace == [.assertReset, .deassertReset, w 0 0]) = true := by
  decide

/-- 70 R331, 46 R268: and none is taken when WORK is drawn 0. -/
theorem test_no_bus_step_with_work_drawn_0 :
    nextWith (execOpEnterReset { started with
        supplied := List.replicate 60 0, schedule := [[], [.busError 1, .otherFlag 0, .txWithdraw .slot0], [.otherFlag 1]] })
      (fun t => t.dev.int == 0 && !t.dev.errcodeValid && t.schedule == [[.otherFlag 1]]) = true := by
  decide

/-- 42 R190, R191: the two modes. -/
theorem test_modes :
    nextWith (execOpEnterReset started) (fun t => t.dev.mode == ⟨false, false, false, false, false⟩ && t.handle.mode == .reset
        && t.trace == [.assertReset, .deassertReset, w 0 0]) = true
      ∧ nextWith (execOpEnterNormal configured) (fun t => t.dev.mode == ⟨true, false, false, false, false⟩
        && t.handle.mode == .normal && t.trace == [r 0 0, w 0 1]) = true := by decide

/-! ### Transmit and receive -/

/-- P2, its second transmit: slot 1, the ID first, the request last. -/
theorem test_transmit :
    nextWith (execOpTransmit tx2 (withDev fun d => { d with req0 := true })) (fun t =>
      t.result == .slot .slot1 && t.handle.outstanding == [.slot1] && t.dev.req1
        && t.trace == [.queueStop, r 4 1, w 0x204 0x1ABCDEF0, w 0x200 0xB9, w 0x208 0x03020100, w 0x20C 0x07060504,
          w 0x210 0x0B0A0908, .echoSubmitted .slot1 tx2, w 4 2]) = true := by decide

/-- P2, its third transmit: both request bits set, Busy. -/
theorem test_transmit_busy :
    nextWith (execOpTransmit tx1 (withDev fun d => { d with req0 := true, req1 := true })) (fun t =>
      t.result == .busy && t.trace == [.queueStop, r 4 3] && t.handle == startedHandle && !t.refused) = true := by decide

/-- 20 R80: a bus-engine step between two steps of transmit sends the capture, not the words being staged. -/
theorem test_transmit_interleaved :
    nextWith (execOpTransmit tx1 { withDev (fun d => { d with req0 := true, slot0 := .queued snapA [] }) with
        schedule := [[], [], [], [.txComplete .slot0]] })
      (fun t => t.dev.slot0 == .sent snapA && t.trace.contains (.busTx .slot0 snapA) && t.result == .slot .slot1) = true := by
  decide

/-- P3, its frame: 19 reads of RXPORT, the frame delivered and counted. -/
theorem test_receive :
    nextWith (execOpReceive (withDev fun d => { d with rxfifo := [entry] })) (fun t =>
      t.trace == entry.map (r 0x400) ++ [.alloc true, .deliverFrame tx1] && t.handle.stats.rxPackets == 1
        && t.handle.stats.rxBytes == 2 && t.dev.rxfifo == []) = true := by decide

/-- 44 R224: with alloc answered fail the frame is still popped, and one drop counted. -/
theorem test_receive_drops :
    nextWith (execOpReceive { withDev (fun d => { d with rxfifo := [entry] }) with answers := ⟨[], [false], []⟩ }) (fun t =>
      t.handle.stats == { Stats.zero with rxDropped := 1 } && t.dev.rxfifo == []) = true := by decide

/-! ### The interrupt handler -/

/-- ISR-2, ISR-3: nothing handled, four accesses. -/
theorem test_isr_nothing :
    nextWith (execOpIsr (flagged 0 .errorActive id)) (fun t => t.trace == [r 0xC 0, r 0x34 0, r 0x38 0, w 0xC 0]) = true
      ∧ nextWith (execOpIsr (flagged 0x80 .errorActive id))
        (fun t => t.trace == [r 0xC 0x80, r 0x34 0, r 0x38 0, w 0xC 0x80] && t.dev.int == 0) = true := by decide

/-- ISR-1: TX_FINISH and RX_FINISH, both branches once. -/
theorem test_isr_tx_and_rx :
    nextWith (execOpIsr { flagged 3 .errorActive (fun d => { d with rxfifo := [entry] }) with
        handle := { startedHandle with outstanding := [.slot0] } })
      (fun t => t.handle.stats == { Stats.zero with txPackets := 1, rxPackets := 1, rxBytes := 2 }
        && t.handle.outstanding == [] && t.trace.contains (.echoComplete .slot0)) = true := by decide

/-- ISR-4 with TYPE 3: kind other, the location kept. -/
theorem test_isr_bus_error :
    nextWith (execOpIsr (flagged 0x10 .errorActive fun d => { d with errcode := 0x60ABC, errcodeValid := true })) (fun t =>
      t.trace.drop 3 == [r 0x2C 0x60ABC, .alloc true,
          .deliverErrorFrame { busError := some ⟨.other, .tx, some 0xABC⟩ }, w 0xC 0x10]
        && t.handle.stats.busError == 1) = true := by decide

/-- ISR-5: the one failed allocation is one drop, and the recovery still happens. -/
theorem test_isr_overrun_without_frame :
    nextWith (execOpIsr { flagged 0x14 .errorActive id with answers := ⟨[], [false, true], []⟩ }) (fun t =>
      t.trace.drop 3 == [.alloc false, .assertReset, .deassertReset, w 0 0, r 0 0, w 0 1, r 0x2C 0, w 0xC 0x14]
        && t.handle.stats == { Stats.zero with rxDropped := 1, rxOverErrors := 1, rxErrors := 1, busError := 1 }) = true := by
  decide

/-- ISR-6, ISR-7: the toggle works on the computed target. -/
theorem test_isr_toggle :
    nextWith (execOpIsr (flagged 0x20 .errorPassive fun d => { d with rxerrcnt := 5, txerrcnt := 130 })) (fun t =>
        t.trace.contains (.deliverErrorFrame { stateChange := some ⟨some .errorWarning, none⟩ })
          && t.handle.busState == .errorWarning) = true
      ∧ nextWith (execOpIsr (flagged 0x28 .errorActive fun d => { d with errwarn := true, busoff := true }))
        (fun t => t.handle.busState == .errorPassive && !t.trace.contains .notifyBusOff) = true := by decide

/-- ISR-8, ISR-12: BusOff and Stopped are not left. -/
theorem test_isr_bus_off_stays :
    nextWith (execOpIsr (flagged 0x28 .busOff id)) (fun t => t.handle.busState == .busOff) = true
      ∧ nextWith (execOpIsr (flagged 8 .stopped fun d => { d with errwarn := true })) (fun t => t.handle.busState == .stopped) = true := by
  decide

/-- ISR-9: a tie records both sides. -/
theorem test_isr_tie :
    nextWith (execOpIsr (flagged 8 .errorActive fun d => { d with errwarn := true, rxerrcnt := 100, txerrcnt := 100 })) (fun t =>
      t.trace.contains (.deliverErrorFrame { stateChange := some ⟨some .errorWarning, some .errorWarning⟩ })) = true := by decide

/-- ISR-10, ISR-13: the raw arbitration code, and the recovery before it is read. -/
theorem test_isr_lost_arbitration :
    nextWith (execOpIsr (flagged 0x40 .errorActive fun d => { d with lostarb := 0x1234 })) (fun t =>
        t.trace.contains (.deliverErrorFrame { arbLost := some 0x1234 })
          && t.handle.stats == { Stats.zero with arbitrationLost := 1, txErrors := 1 }) = true
      ∧ nextWith (execOpIsr (flagged 0x44 .errorActive fun d => { d with lostarb := 0x1234 })) (fun t =>
        t.trace.drop 3 == [.alloc true, .assertReset, .deassertReset, w 0 0, r 0 0, w 0 1, r 0x28 0,
          .deliverErrorFrame { rxOverflow := true, arbLost := some 0 }, w 0xC 0x44]) = true := by decide

/-- ISR-15: a remote frame counts no byte. -/
theorem test_isr_remote_bytes :
    nextWith (execOpIsr (flagged 1 .errorActive fun d => { d with txfic := 0x44 }))
      (fun t => t.handle.stats == { Stats.zero with txPackets := 1 }) = true := by decide

/-- 70 R345: a flag the bus engine sets again before the acknowledge is lost with it. -/
theorem test_isr_lost_flag :
    nextWith (execOpIsr { flagged 0x80 .errorActive id with schedule := [[], [], [], [.otherFlag 0, .otherFlag 1]] })
      (fun t => t.dev.int == 0x100) = true := by decide

/-! ### Witnesses: for each obligation a state and operands that meet its hypotheses -/

/-- The states of this file carry admissible parameters. -/
theorem witness_admissible : Params.p0.Admissible := by decide

/-- Parameters other than P0, with every field elsewhere, are admissible too. -/
theorem witness_other_parameters :
    ({ Params.p0 with
      modeWork := 7, modeSelftest := 31, modeAutoretx := 0, cmdTxreq0 := 5, cmdTxreq1 := 2, intTxFinish := 14,
      intOther := #v[0, 8, 9, 10, 11, 12, 13, 7], errcodeLoc := 16, errcodeDir := 0, errcodeType := 5,
      dbtpTseg1Sh := 20, dbtpTseg2Sh := 0, dbtpBrpSh := 4, dbtpSjwSh := 12, dbtpSam := 25, tdcrEn := 10,
      tdcrTdcoSh := 20, cmdZeroWrite := .noEffect, rxFifoDepth := 1 } : Params).Admissible := by decide

theorem witness_DecodeOfEncodeIsTheInstruction :
    Params.p0.Admissible ∧ WellFormed .p0 (.opTransmit tx2) = true ∧ WellFormed .p0 (.wrRxport 0 5) = true
      ∧ WellFormed .p0 (.opConfigure cfg1) = true := by decide

/-- A state and a host request for each clause, at the values where the clauses meet. -/
theorem witness_IllegalDescriptorsAreRefused :
    started.fault = none ∧ started.core = .idle
      ∧ (asking started .host 0x1000 []).inbox = [⟨.host, 0x1000, []⟩]
      ∧ descZ 0x1000 ≠ 0#2
      ∧ (descClass 0x0002 = 0#2 ∧ descOff 0x0002 % 4 ≠ 0)
      ∧ (descClass 0x4FFC = 1#2 ∧ ∀ reg, started.params.off reg ≠ descOff 0x4FFC)
      ∧ (descClass 0x8106 = 2#2 ∧ descZ2 0x8106 ≠ 0#4) ∧ (descClass 0xC100 = 3#2 ∧ descZ2 0xC100 ≠ 0#4)
      ∧ (descClass 0x8000 = 2#2 ∧ descOpn 0x8000 = 0#8) ∧ (descClass 0x800F = 2#2 ∧ 0x0E < (descOpn 0x800F).toNat)
      ∧ (descClass 0xC009 = 3#2 ∧ 0x08 < (descOpn 0xC009).toNat)
      ∧ (descClass 0x800B = 2#2 ∧ 0x0B ≤ (descOpn 0x800B).toNat)
      ∧ (descClass 0x800D = 2#2 ∧ (descOpn 0x800D).toNat ≤ 0x0D)
      ∧ (descClass 0xC000 = 3#2 ∧ descOpn 0xC000 = 0#8)
      ∧ (asking started .core 0x800F []).inbox = [⟨.core, 0x800F, []⟩] ∧ Issuer.device ≠ Issuer.core
      ∧ (asking started .host 0x800B [7]).inbox = [⟨.host, 0x800B, [7]⟩] :=
  ⟨rfl, rfl, rfl, by decide, by decide, ⟨by decide, Params.regAt_eq_none.mp (by decide)⟩, by decide, by decide, by decide,
    by decide, by decide, by decide, by decide, by decide, rfl, by decide, rfl⟩

theorem witness_StepRunsTheDecodedInstruction :
    started.fault = none ∧ (asking started .host 0x8006 []).inbox = ⟨.host, 0x8006, []⟩ :: []
      ∧ started.core = .idle ∧ permission .host 0x8006 = .granted ∧ permission .device 0xC002 = .granted
      ∧ permission .core 0x800B = .granted
      ∧ decodeRequest started.params 0x8006 [] = .ok .opIsr ∧ decodeRequest started.params 0xC002 [] = .ok .evRxReassert
      ∧ decodeRequest started.params 0x800B [] = .ok .opEnterReset := by decide

theorem witness_UnmappedCoreAccessEndsTheInstance :
    started.fault = none ∧ (asking started .core 0x0FFC []).inbox = ⟨.core, 0x0FFC, []⟩ :: []
      ∧ descZ 0x0FFC = 0#2 ∧ descClass 0x0FFC = 0#2 ∧ (∀ reg, started.params.off reg ≠ descOff 0x0FFC)
      ∧ (descZ 0x4001 = 0#2 ∧ descClass 0x4001 = 1#2 ∧ descOff 0x4001 % 4 ≠ 0)
      ∧ ({ started with fault := some 0xFFC } : State).fault = some 0xFFC :=
  ⟨rfl, rfl, by decide, by decide, Params.regAt_eq_none.mp (by decide), by decide, rfl⟩

theorem witness_FieldRegistersReadTheirFields : started.params.Admissible := witness_admissible

theorem witness_TimingAndErrorRegistersReadTheirFields :
    started.params.Admissible ∧ { startedDev with errcodeValid := true }.errcodeValid = true
      ∧ started.params.errcodeAckInvalidates = true ∧ started.dev.errcodeValid = false :=
  ⟨witness_admissible, rfl, rfl, rfl⟩

theorem witness_RxportReadPopsTheHeadWord :
    started.dev.rxfifo = [] ∧ (withDev fun d => { d with rxfifo := [entry] }).dev.rxfifo = (2 :: entry.tail) :: []
      ∧ (withDev fun d => { d with rxfifo := [[9], entry] }).dev.rxfifo = (9 :: []) :: [entry] := by decide

theorem witness_AccessesChangeNothingElse :
    (∃ t, exec (readInstr .mode) started = .next t) ∧ (∃ t, exec (readInstr (.rxport 18)) started = .next t)
      ∧ (∃ t, exec (writeInstr .cmd 3) started = .next t) ∧ Reg.isRxport .mode = false ∧ Reg.isRxport (.rxport 18) = true :=
  ⟨⟨_, rfl⟩, ⟨_, rfl⟩, ⟨_, rfl⟩, rfl, rfl⟩

theorem witness_FieldRegistersTakeTheirFields : started.params.Admissible := witness_admissible

theorem witness_IntWriteClearsTheWrittenFlags : started.params.Admissible := witness_admissible

theorem witness_WritesLeaveOtherRegisters :
    Reg.mode ≠ Reg.tdcr ∧ (Reg.mode ≠ .int ∨ Reg.tdcr ≠ .errcode) ∧ ∃ t, exec (writeInstr .mode 1) started = .next t
      ∧ (∃ u, exec (readInstr .tdcr) t = .next u) ∧ ∃ v, exec (readInstr .tdcr) started = .next v :=
  ⟨by decide, by decide, _, rfl, ⟨_, rfl⟩, _, rfl⟩

theorem witness_RxArriveQueuesOrOverruns :
    started.params.Admissible ∧ started.dev.mode.work = true ∧ started.dev.rxfifoEn = true
      ∧ started.dev.idmask[(5 : Fin 6)] &&& 0x1FFFFFFF#32 = 0x1FFFFFFF#32
      ∧ [entry, entry, entry].length < started.params.rxFifoDepth
      ∧ ¬[entry, entry, entry, entry].length < started.params.rxFifoDepth
      ∧ configured.dev.mode.work = false ∧ configured.dev.rxfifoEn = false := by decide

theorem witness_FlagEventsRaiseTheirFlag :
    started.params.Admissible ∧ started.dev.mode.work = true
      ∧ (withDev fun d => { d with rxfifo := [entry] }).dev.rxfifo ≠ [] ∧ started.dev.rxfifo = []
      ∧ configured.dev.mode.work = false := by decide

theorem witness_SlotEventsSendOrWithdraw :
    started.params.Admissible ∧ started.dev.mode.work = true ∧ started.dev.req .slot1 = false
      ∧ (withDev fun d => { d with slot1 := .queued snapA [] }).dev.slot .slot1 = .queued snapA []
      ∧ (withDev fun d => { d with slot1 := .queued snapA [⟨5, 6, .replicate 16 0⟩] }).dev.slot .slot1
          = .queued snapA [⟨5, 6, .replicate 16 0⟩]
      ∧ (withDev fun d => { d with req1 := true }).dev.req .slot1 = true ∧ configured.dev.mode.work = false
      ∧ ∀ snap older, started.dev.slot .slot0 ≠ .queued snap older :=
  ⟨witness_admissible, rfl, rfl, rfl, rfl, rfl, rfl, by intro snap older h; cases h⟩

theorem witness_ErrorEventsRecordWhatTheyCarry :
    started.params.Admissible ∧ started.dev.mode.work = true ∧ configured.dev.mode.work = false
      ∧ (∃ x snap older, (withDev fun d => { d with slot1 := .queued snapA [] }).dev.slot x = .queued snap older)
      ∧ ∀ x snap older, started.dev.slot x ≠ .queued snap older :=
  ⟨witness_admissible, rfl, rfl, ⟨.slot1, snapA, [], rfl⟩, by intro x snap older; cases x <;> intro h <;> cases h⟩

theorem witness_BusEngineWritesOnlyItsRegisters :
    (∃ t, exec .evRxReassert started = .next t) ∧ (∃ t, exec (.evErrState 1 2 true true true true) started = .next t)
      ∧ (∃ t, exec (.evTxWithdraw .slot0) configured = .next t) ∧ configured.dev.mode.work = false
      ∧ (∀ x, Instr.evRxReassert ≠ .evTxWithdraw x)
      ∧ startedDev.SameEnabling { startedDev with int := 0x7FFF, intMask := 5, busoff := true, fdtxEn := false, nbtp := 0 } :=
  ⟨⟨_, rfl⟩, ⟨_, rfl⟩, ⟨_, rfl⟩, rfl, (by intro x h; cases h), rfl, rfl, rfl, rfl, rfl, rfl, rfl⟩

theorem witness_EncodedTimingsDecodeBack :
    started.params.Admissible ∧ started.attached = .live ∧ validNominal ⟨512, 128, 64, 64, 128, true⟩ = true ∧ validData ⟨512, 16, 16, 16, 16, true⟩ = true
      ∧ validNominal zeroTiming = false ∧ validData zeroTiming = false := by decide

theorem witness_EncodeNominalIsTheSumOfItsFields :
    Params.p0.Admissible ∧ validNominal ⟨2, 1, 0, 1, 1, false⟩ = true ∧ validNominal ⟨512, 128, 64, 64, 128, true⟩ = true := by
  decide

theorem witness_ComputeTdcAnswersTheOffset :
    started.attached = .live ∧ (2200000 : Word).toNat ≤ 2200000 ∧ 2200000 < (2200001 : Word).toNat
      ∧ (2200001 : Word).toNat ≤ (8000000 : Word).toNat ∧ computeTdc 80000000 8000000 = some 6 := by decide

/-- `started`, with a bus-engine step scheduled before the MODE write and WORK drawn as `work` says. -/
def disturbed (work : Word) : State :=
  { started with supplied := [work, work], schedule := [[], [.busError 1], [.busError 1]] }

theorem witness_EnterResetLeavesResetMode :
    started.attached = .live ∧ started.schedule[1]?.getD [] = [] ∧ (disturbed 0).attached = .live
      ∧ ((disturbed 0).fresh 0).getLsbD (disturbed 0).params.modeWork = false
      ∧ (disturbed 1).attached = .live ∧ (disturbed 1).schedule[1]?.getD [] ≠ []
      ∧ ((disturbed 1).fresh 0).getLsbD (disturbed 1).params.modeWork = true := by decide

theorem witness_EnterNormalSetsWorkOnly :
    configured.params.Admissible ∧ configured.attached = .live ∧ configured.schedule = [] := ⟨witness_admissible, rfl, rfl⟩

theorem witness_StartLeavesTheStartedState :
    configured.params.Admissible ∧ configured.attached = .live ∧ configured.handle.config = some cfg1
      ∧ nextAcquire configured = true ∧ configured.schedule = []
      ∧ computeTdc configured.handle.clockHz cfg1.dataBitrate = some 13
      ∧ computeTdc configured.handle.clockHz { cfg1 with dataBitrate := 2200000 }.dataBitrate = none
      ∧ configured.fault = none ∧ configured.refused = false ∧ CanConfig.valid cfg1 = true
      ∧ configured.handle = { Handle.fresh configured.handle.clockHz with config := some cfg1 } := by decide

theorem witness_OperationsTurnedAwayChangeNothing :
    started.attached = .live ∧ (Handle.fresh 0).config = none ∧ started.handle.config ≠ none
      ∧ nextAcquire { started with answers := ⟨[false], [], []⟩ } = false ∧ started.schedule = [] := by decide

theorem witness_StartAccessesInOrder :
    configured.schedule = [] ∧ configured.attached = .live ∧ configured.handle.config = some cfg1
      ∧ nextAcquire configured = true ∧ ∃ t, exec .opStart configured = .next t :=
  ⟨rfl, rfl, rfl, rfl, _, rfl⟩

theorem witness_StopLeavesTheBlockSilent :
    started.attached = .live ∧ nextAcquire started = true ∧ started.schedule[2]?.getD [] = []
      ∧ nextAcquire (disturbed 0) = true
      ∧ (((disturbed 0).addDraws 1).fresh 0).getLsbD (disturbed 0).params.modeWork = false
      ∧ nextAcquire (disturbed 1) = true ∧ (disturbed 1).schedule[2]?.getD [] ≠ []
      ∧ (((disturbed 1).addDraws 1).fresh 0).getLsbD (disturbed 1).params.modeWork = true := by decide

theorem witness_GetBerrCounterAnswersTheCounters :
    started.attached = .live ∧ nextAcquire started = true ∧ started.schedule = [] := ⟨rfl, rfl, rfl⟩

theorem witness_AttachCreatesTheHandle :
    State.reset.attached = .absent ∧ started.attached = .live
      ∧ ({ started with attached := .invalid } : State).attached = .invalid := ⟨rfl, rfl, rfl⟩

theorem witness_ConfigureStoresOnlyValidTimings :
    started.attached = .live ∧ validNominal cfg1.nominal = true ∧ validData cfg1.data = true
      ∧ validNominal zeroTiming = false ∧ validData zeroTiming = false := by decide

theorem witness_NoOperationWithoutAHandle :
    started.attached = .live ∧ State.reset.attached ≠ .live
      ∧ ({ started with attached := .invalid } : State).attached ≠ .live := by decide

theorem witness_TransmitStagesAndRequests :
    started.params.Admissible ∧ started.attached = .live ∧ wellFormedFrame tx1 = true ∧ started.schedule = []
      ∧ ¬(started.dev.req0 = true ∧ started.dev.req1 = true)
      ∧ wellFormedFrame ⟨1, false, false, true, true, 64, List.replicate 64 7⟩ = true
      ∧ ¬({ startedDev with req0 := true }.req0 = true ∧ { startedDev with req0 := true }.req1 = true) := by decide

theorem witness_TransmitEmitsInOrder :
    started.params.Admissible ∧ started.schedule = [] ∧ started.attached = .live ∧ wellFormedFrame tx1 = true
      ∧ ¬(started.dev.req0 = true ∧ started.dev.req1 = true) ∧ ∃ t, exec (.opTransmit tx1) started = .next t :=
  ⟨witness_admissible, rfl, rfl, rfl, by decide, _, rfl⟩

theorem witness_TransmitTurnedAwayWritesNothing :
    started.params.Admissible ∧ started.attached = .live ∧ wellFormedFrame { tx1 with length := 9 } = false
      ∧ wellFormedFrame tx1 = true ∧ { startedDev with req0 := true, req1 := true }.req0 = true
      ∧ { startedDev with req0 := true, req1 := true }.req1 = true := by decide

theorem witness_TwoTransmitsFillBothSlots :
    started.params.Admissible ∧ started.attached = .live ∧ started.dev.req0 = false ∧ started.dev.req1 = false
      ∧ wellFormedFrame tx1 = true ∧ wellFormedFrame tx2 = true ∧ wellFormedFrame tx3 = true := by decide

theorem witness_StagedFramesDecodeBack :
    wellFormedFrame tx1 = true
      ∧ ∀ i, i < wordsFor tx1.length → ([0x2211, 0xFFFFFFFF] : List Word).getD i 0 = payloadWord tx1 i := by decide

theorem witness_ReceiveDeliversTheHeadEntry :
    started.attached = .live ∧ (withDev fun d => { d with rxfifo := [entry] }).dev.rxfifo = entry :: [] ∧ entry.length = 19
      ∧ started.schedule = [] ∧ started.answers.alloc.head? = some true := by decide

theorem witness_IsrAcknowledgesWhatItRead : started.attached = .live := rfl

theorem witness_IsrWithoutHandledFlagsOnlyAcknowledges :
    started.params.Admissible ∧ started.attached = .live ∧ started.schedule = [] ∧ started.dev.OnlyFlags started.params [] := by
  refine ⟨witness_admissible, rfl, rfl, ?_⟩
  unfold Device.OnlyFlags
  decide

theorem witness_IsrHandlesTxFinish :
    started.params.Admissible ∧ started.attached = .live ∧ started.schedule = []
      ∧ { startedDev with int := 0x81 }.OnlyFlags started.params [started.params.intTxFinish]
      ∧ { startedDev with int := 0x81 }.intFlag started.params.intTxFinish = true := by
  refine ⟨witness_admissible, rfl, rfl, ?_, rfl⟩
  unfold Device.OnlyFlags
  decide

theorem witness_IsrHandlesRxFinishOnce :
    started.params.Admissible ∧ started.attached = .live ∧ started.schedule = []
      ∧ { startedDev with int := 2 }.OnlyFlags started.params [started.params.intRxFinish]
      ∧ { startedDev with int := 2 }.intFlag started.params.intRxFinish = true
      ∧ (withDev fun d => { d with rxfifo := [entry, entry] }).dev.rxfifo = entry :: [entry] ∧ entry.length = 19
      ∧ started.answers.alloc.head? = some true := by
  refine ⟨witness_admissible, rfl, rfl, ?_, rfl, rfl, rfl, rfl⟩
  unfold Device.OnlyFlags
  decide

theorem witness_IsrRecoversExactlyOncePerOverrun :
    started.params.Admissible ∧ started.attached = .live ∧ started.schedule = []
      ∧ { startedDev with int := 4 }.intFlag started.params.intRxBufOv = true
      ∧ started.dev.intFlag started.params.intRxBufOv = false := ⟨witness_admissible, rfl, rfl, rfl, rfl⟩

theorem witness_IsrComputesTheBusState :
    started.params.Admissible ∧ started.attached = .live ∧ started.schedule = [] := ⟨witness_admissible, rfl, rfl⟩

theorem witness_IsrCountsEachFlagOnce :
    started.params.Admissible ∧ started.attached = .live ∧ started.schedule = []
      ∧ started.dev.intFlag started.params.intRxFinish = false
      ∧ (flagged 3 .errorActive fun d => { d with rxfifo := [entry] }).dev.intFlag started.params.intRxFinish = true
      ∧ (flagged 3 .errorActive fun d => { d with rxfifo := [entry] }).dev.rxfifo = entry :: [] ∧ entry.length = 19
      ∧ started.answers.alloc.head? = some true ∧ started.answers.alloc[1]? = some true := by decide

/-- The launch premise started(cfg) is met (60 R328). -/
theorem witness_Started : ({ started with answers := allOk } : State).Started cfg1 := by
  unfold State.Started State.StartedRegisters Device.Quiet State.Clean
  refine ⟨rfl, rfl, by decide, ⟨rfl, rfl, by decide, rfl, fun _ => rfl, by decide, by decide, ?_, rfl, rfl, rfl, rfl, rfl⟩,
    by decide, by decide, rfl⟩
  refine ⟨by decide, ?_⟩
  intro o h
  have h' : computeTdc started.handle.clockHz cfg1.dataBitrate = some 13 := by decide
  obtain rfl : (13 : BitVec 8) = o := Option.some.inj (h'.symm.trans h)
  exact ⟨rfl, rfl⟩

/-- A run whose bus engine has more to do has ended (60 R327). -/
theorem witness_EndOfRun : (asking started .device 0xC002 []).EndOfRun :=
  ⟨rfl, by decide, by decide, rfl, rfl⟩

theorem witness_IsrDiagnosesBusErrorAndLostArbitration :
    started.params.Admissible ∧ started.attached = .live ∧ started.schedule = []
      ∧ { startedDev with int := 0x50 }.OnlyFlags started.params [started.params.intBusErr, started.params.intTxLostarb]
      ∧ { startedDev with int := 0x50 }.intFlag started.params.intBusErr = true
      ∧ { startedDev with int := 0x50 }.intFlag started.params.intTxLostarb = true
      ∧ { startedDev with errcodeValid := true }.errcodeValid = true ∧ started.answers.alloc.head? = some true := by
  refine ⟨witness_admissible, rfl, rfl, ?_, rfl, rfl, rfl, rfl⟩
  unfold Device.OnlyFlags
  decide

theorem witness_IsrAttributesTheStateChange :
    started.params.Admissible ∧ started.attached = .live ∧ started.schedule = []
      ∧ { startedDev with int := 0x20 }.OnlyFlags started.params [started.params.intPassiveErr]
      ∧ { startedDev with int := 0x20 }.intFlag started.params.intPassiveErr = true
      ∧ started.handle.busState = .errorActive ∧ started.answers.alloc.head? = some true
      ∧ ({ started with answers := ⟨[], [false], []⟩ } : State).answers.alloc.head? = some false := by
  refine ⟨witness_admissible, rfl, rfl, ?_, rfl, rfl, rfl, rfl⟩
  unfold Device.OnlyFlags
  decide

theorem witness_BusOffIsLeftOnlyByStartOrStop :
    (∃ t, exec .opIsr (flagged 0x28 .busOff id) = .next t) ∧ (flagged 0x28 .busOff id).attached = .live
      ∧ (flagged 0x28 .busOff id).handle.busState = .busOff ∧ Instr.opIsr ≠ .opStart ∧ Instr.opIsr ≠ .opStop
      ∧ Instr.opIsr ≠ .opDetach := ⟨⟨_, rfl⟩, rfl, rfl, by decide, by decide, by decide⟩

theorem witness_StatisticsNeverFall :
    ∃ t, exec .opIsr started = .next t ∧ started.attached = .live ∧ t.attached = .live := ⟨_, rfl, rfl, rfl⟩

theorem witness_MarksAndParametersStay :
    (∃ t, step (asking { started with refused := true } .host 0x8006 []) = .next t)
      ∧ (asking { started with refused := true } .host 0x8006 []).refused = true
      ∧ ∃ t, exec .opStop started = .next t := ⟨⟨_, rfl⟩, rfl, _, rfl⟩

theorem witness_FlagsAreClearedOnlyByAcknowledgeOrReset :
    ∃ t, exec (.wrInt 1) (withDev fun d => { d with int := 3 }) = .next t
      ∧ (withDev fun d => { d with int := 3 }).dev.intFlag 0 = true ∧ t.dev.intFlag 0 = false := ⟨_, rfl, rfl, rfl⟩

theorem witness_HandleFieldsHaveTheirWriters :
    (∃ t, exec .opReceive started = .next t) ∧ Instr.opReceive ≠ .opAttach ∧ Instr.opReceive ≠ .opDetach :=
  ⟨⟨_, rfl⟩, by decide, by decide⟩

theorem witness_EveryStepKeepsTheInvariant :
    (asking (withDev fun d => { d with rxfifo := [entry, entry, entry, entry] }) .host 0x8006 []).Inv
      ∧ ∃ t, step (asking (withDev fun d => { d with rxfifo := [entry, entry, entry, entry] }) .host 0x8006 []) = .next t := by
  refine ⟨?_, _, rfl⟩
  unfold State.Inv
  exact ⟨witness_admissible, by decide, by decide, by decide, rfl⟩

end Sys2Proof.Tests
end

