-- ==== Sys2Proof/Proofs/State.lean ====
section
/-! PROOF. The interrupt line and the statistics counters (spec/10_state.md R28, R48). -/

namespace Sys2Proof.Machine

/-! ### The interrupt line -/

/-- Bit `n` of the word `irq` tests: flag `n` is set and unmasked (10 R28). -/
theorem Device.unmasked_getLsbD (d : Device) {n : Nat} (hn : n < 15) :
    (d.int &&& ~~~(d.intMask.setWidth 15)).getLsbD n = (d.intFlag n && !d.intMask.getLsbD n) := by
  simp only [Device.intFlag, BitVec.getLsbD_and, BitVec.getLsbD_not, BitVec.getLsbD_setWidth, hn, decide_true,
    Bool.true_and]

/-- Settles O22: a word is not 0 exactly when one of its bits is 1, and each bit of the tested word is a flag that is set
and unmasked. -/
theorem interruptLineIsAnUnmaskedFlag : Obligations.InterruptLineIsAnUnmaskedFlag := by
  intro d
  simp only [Device.irq, bne_iff_ne, ne_eq, BitVec.eq_of_getLsbD_eq_iff, not_forall, exists_prop]
  refine exists_congr fun n => and_congr_right fun hn => ?_
  simp [Device.unmasked_getLsbD d hn]

/-! ### The order on the statistics -/

theorem Stats.LeAll.refl (a : Stats) : a.LeAll a := by simp [Stats.LeAll]

theorem Stats.LeAll.of_eq {a b : Stats} (h : b = a) : a.LeAll b := h ▸ .refl a

theorem Stats.LeAll.trans {a b c : Stats} (hab : a.LeAll b) (hbc : b.LeAll c) : a.LeAll c := by
  unfold Stats.LeAll at *
  omega

/-! ### Receive and the handler only count up -/

/-- A delivery counts the frame or one drop (44 R224). -/
theorem deliver_stats_le (f : Frame) (s : State) : s.handle.stats.LeAll (deliver f s).handle.stats := by
  rw [deliver_handle]
  split
  · simp [Stats.LeAll, countReceived]
  · simp [Stats.LeAll]

theorem receive_stats_le (s : State) : s.handle.stats.LeAll (receive s).handle.stats := by
  simpa [receive] using deliver_stats_le _ (popPorts (List.finRange 19) s).2

/-- ensure_ef counts at most one drop (45 R240). -/
theorem ensureEf_stats_le (x : IsrState) : x.2.handle.stats.LeAll (ensureEf x).2.handle.stats := by
  obtain ⟨-, -, -, h | h⟩ := ensureEf_spec x <;> rw [h]
  · exact .refl _
  · simp [Stats.LeAll]

theorem stepTxFinish_stats_le (x : IsrState) : x.2.handle.stats.LeAll (stepTxFinish x).2.handle.stats := by
  simp [stepTxFinish, Stats.LeAll]

theorem stepRxFinish_stats_le (x : IsrState) : x.2.handle.stats.LeAll (stepRxFinish x).2.handle.stats :=
  receive_stats_le x.2

theorem stepRxOverrun_stats_le (x : IsrState) : x.2.handle.stats.LeAll (stepRxOverrun x).2.handle.stats := by
  refine (ensureEf_stats_le x).trans ?_
  simp [stepRxOverrun, countIn, editEf, enterReset_handle, enterNormal_handle, Stats.LeAll]

theorem stepErrorWarning_stats (x : IsrState) : (stepErrorWarning x).2.handle.stats = x.2.handle.stats := by
  simp [stepErrorWarning]

theorem stepErrorPassive_stats (x : IsrState) : (stepErrorPassive x).2.handle.stats = x.2.handle.stats := rfl

theorem stepBusError_stats_le (x : IsrState) : x.2.handle.stats.LeAll (stepBusError x).2.handle.stats := by
  refine .trans ?_ (ensureEf_stats_le _)
  simp [Stats.LeAll]

theorem stepArbitrationLost_stats_le (x : IsrState) :
    x.2.handle.stats.LeAll (stepArbitrationLost x).2.handle.stats := by
  refine .trans ?_ (ensureEf_stats_le _)
  simp [Stats.LeAll]

theorem notifyIfBusOff_stats (new : BusState) (x : IsrState) :
    (notifyIfBusOff new x).2.handle.stats = x.2.handle.stats := by
  unfold notifyIfBusOff
  split <;> simp

theorem stateUpdate_stats_le (x : IsrState) : x.2.handle.stats.LeAll (stateUpdate x).2.handle.stats := by
  unfold stateUpdate
  split
  · rw [notifyIfBusOff_stats]
    exact ensureEf_stats_le (x.1, x.2.updHandle fun h => { h with busState := x.1.target })
  · exact .refl _

/-- A flag step counts up whether or not its flag is set (45 R232). -/
theorem whenFlag_stats_le {step : IsrState → IsrState}
    (h : ∀ y : IsrState, y.2.handle.stats.LeAll (step y).2.handle.stats) (n : Nat) (x : IsrState) :
    x.2.handle.stats.LeAll (whenFlag n step x).2.handle.stats :=
  whenFlag_keeps (P := fun y => x.2.handle.stats.LeAll y.2.handle.stats) (fun y hy => hy.trans (h y)) x (.refl _)

theorem isrSteps_stats_le (p : Params) (x : IsrState) : x.2.handle.stats.LeAll (isrSteps p x).2.handle.stats :=
  (whenFlag_stats_le stepTxFinish_stats_le _ _).trans <|
  (whenFlag_stats_le stepRxFinish_stats_le _ _).trans <|
  (whenFlag_stats_le stepRxOverrun_stats_le _ _).trans <|
  (whenFlag_stats_le (fun y => .of_eq (stepErrorWarning_stats y)) _ _).trans <|
  (whenFlag_stats_le stepBusError_stats_le _ _).trans <|
  (whenFlag_stats_le (fun y => .of_eq (stepErrorPassive_stats y)) _ _).trans <|
  (stateUpdate_stats_le _).trans <|
  whenFlag_stats_le stepArbitrationLost_stats_le _ _

theorem isrEntry_stats (s : State) : (isrEntry s).2.handle.stats = s.handle.stats := by simp [isrEntry]

theorem deliverEf_stats (x : IsrState) : (deliverEf x).2.handle.stats = x.2.handle.stats := by
  unfold deliverEf
  split <;> simp

theorem opIsr_stats_le (s : State) : s.handle.stats.LeAll (opIsr s).handle.stats := by
  have h := isrSteps_stats_le s.params (isrEntry (begin .isr s))
  simpa [opIsr, finish, acknowledge, deliverEf_stats, isrEntry_stats, begin] using h

/-! ### No other operation on a live handle touches the statistics -/

theorem refuse_stats (r : RefuseReason) (s : State) : (refuse r s).handle.stats = s.handle.stats := by simp [refuse_eq]

theorem encodeWith_stats (valid : Bool) (v : Word) (s : State) : (encodeWith valid v s).handle.stats = s.handle.stats := by
  cases valid
  · exact refuse_stats _ _
  · rfl

theorem startSequence_stats (cfg : CanConfig) (s : State) : (startSequence cfg s).handle.stats = s.handle.stats := by
  simp [startSequence, enterNormal_handle, enterReset_handle]

theorem opStart_stats (s : State) : (opStart s).handle.stats = s.handle.stats := by
  unfold opStart
  split
  · exact refuse_stats _ _
  · dsimp only
    split <;> simp [finish, begin, startSequence_stats]

theorem opStop_stats (s : State) : (opStop s).handle.stats = s.handle.stats := by
  unfold opStop
  dsimp only
  split <;> simp [finish, begin, enterReset_handle]

theorem opGetBerrCounter_stats (s : State) : (opGetBerrCounter s).handle.stats = s.handle.stats := by
  unfold opGetBerrCounter
  dsimp only
  split <;> simp [finish, begin]

theorem opConfigure_stats (cfg : CanConfig) (s : State) : (opConfigure cfg s).handle.stats = s.handle.stats := by
  unfold opConfigure
  split <;> rfl

theorem submit_stats (f : Frame) (slot : SlotId) (s : State) : (submit f slot s).handle.stats = s.handle.stats := by
  simp [submit, finish]

theorem opTransmit_stats (f : Frame) (s : State) : (opTransmit f s).handle.stats = s.handle.stats := by
  unfold opTransmit
  split
  · dsimp only
    split <;> simp [submit_stats, finish, begin]
  · exact refuse_stats _ _

/-- On a live handle an operation that needs one answers its body's state. -/
theorem eq_body_of_withHandle {body : State → State} {s t : State} (h : withHandle body s = .next t)
    (hs : s.attached = .live) : t = body s :=
  (Host.Outcome.next.inj ((withHandle_live hs).symm.trans h)).symm

/-- An operation keeps the statistics where its body does: without a valid handle it is refused. -/
theorem withHandle_stats {body : State → State} {s t : State} (h : withHandle body s = .next t)
    (hb : (body s).handle.stats = s.handle.stats) : t.handle.stats = s.handle.stats := by
  by_cases hs : s.attached = .live
  · exact eq_body_of_withHandle h hs ▸ hb
  · obtain rfl := Host.Outcome.next.inj ((withHandle_not_live hs).symm.trans h)
    exact refuse_stats _ _

/-- Only the handler, its receive step, attach and detach write the statistics: every other instruction, start and stop
included, leaves them as they are (10 R48). -/
theorem exec_stats {i : Instr} {s t : State} (h : exec i s = .next t) (hisr : i ≠ .opIsr) (hrec : i ≠ .opReceive)
    (hatt : i ≠ .opAttach) (hdet : i ≠ .opDetach) : t.handle.stats = s.handle.stats := by
  cases i
  case opIsr | opReceive | opAttach | opDetach => contradiction
  case opConfigure cfg => exact withHandle_stats h (opConfigure_stats cfg s)
  case opStart => exact withHandle_stats h (opStart_stats s)
  case opStop => exact withHandle_stats h (opStop_stats s)
  case opTransmit f => exact withHandle_stats h (opTransmit_stats f s)
  case opGetBerrCounter => exact withHandle_stats h (opGetBerrCounter_stats s)
  case opEncodeNominal | opEncodeData => exact withHandle_stats h (encodeWith_stats _ _ s)
  case opComputeTdc => exact withHandle_stats h rfl
  case opEnterReset =>
    exact withHandle_stats (body := fun s => (enterReset s).setResult .ok) h (by simp [enterReset_handle])
  case opEnterNormal =>
    exact withHandle_stats (body := fun s => (enterNormal s).setResult .ok) h (by simp [enterNormal_handle])
  case evRxArrive | evRxReassert | evTxComplete | evTxWithdraw | evBusError | evArbLost | evErrState | evOtherFlag =>
    obtain rfl := Host.Outcome.next.inj h
    exact congrArg Handle.stats (busStep_handle s _)
  -- the register accesses and the reset pulse
  all_goals
    obtain rfl := Host.Outcome.next.inj h
    rfl

/-- Settles O55: only four instructions write the statistics. Of these isr and receive count up, attach is refused while the
handle lives, and detach ends its life. -/
theorem statisticsNeverFall : Obligations.StatisticsNeverFall := by
  intro i s t h hs ht
  by_cases hisr : i = .opIsr
  · subst hisr
    exact eq_body_of_withHandle (body := opIsr) h hs ▸ opIsr_stats_le s
  by_cases hrec : i = .opReceive
  · subst hrec
    rw [eq_body_of_withHandle (body := fun s => (receive s).setResult .ok) h hs]
    exact receive_stats_le s
  by_cases hatt : i = .opAttach
  · subst hatt
    have hr : exec .opAttach s = .next (refuse .alreadyAttached s) := by simp only [exec, execOpAttach, hs]
    obtain rfl := Host.Outcome.next.inj (hr.symm.trans h)
    exact .of_eq (refuse_stats _ _)
  by_cases hdet : i = .opDetach
  · subst hdet
    rw [eq_body_of_withHandle
      (body := fun s => finish .ok ((s.updHandle fun _ => Handle.fresh 0).setAttached .invalid)) h hs] at ht
    cases ht
  exact .of_eq (exec_stats h hisr hrec hatt hdet)

end Sys2Proof.Machine
end

