-- ==== Sys2Proof/Proofs/Encoding.lean ====
section
/-! PROOF. The length codes (spec/30_encoding.md R98, R99). -/

namespace Sys2Proof.Machine

/-- Each of the 16 codes is the code of its own length (30 R99). -/
@[simp] theorem len2dlc_dlc2len (c : BitVec 4) : len2dlc (dlc2len true c) = some c := by
  revert c
  decide

/-- A length that has a code is the one the table gives for it (30 R98, R99). -/
theorem dlc2len_of_len2dlc {n : Nat} {c : BitVec 4} (h : len2dlc n = some c) : dlc2len true c = n := by
  unfold len2dlc at h
  split at h
  case isTrue hn =>
    -- up to 8 the code is the length itself
    obtain rfl := Option.some.inj h
    interval_cases n <;> rfl
  case isFalse =>
    -- past 8 one branch for each of the seven codes left, and none for every other length
    split_ifs at h
    all_goals
      obtain rfl := Option.some.inj h
      subst n
      rfl

/-- `len2dlc` inverts the FD table (30 R99). -/
theorem len2dlc_eq_some_iff {n : Nat} {c : BitVec 4} : len2dlc n = some c ↔ dlc2len true c = n :=
  ⟨dlc2len_of_len2dlc, fun h => h ▸ len2dlc_dlc2len c⟩

/-- Settles O43: the table lists the lengths of the 16 codes, the clamp is the definition's other branch, and the two maps
invert each other. -/
theorem lengthCodesAreABijection : Obligations.LengthCodesAreABijection :=
  ⟨by decide, fun _ => rfl, fun _ _ => len2dlc_eq_some_iff⟩

end Sys2Proof.Machine
end

