-- ==== Sys2Proof/Proofs/RegisterOps.lean ====
section
/-! PROOF. The accesses with an effect of their own: the acknowledge of INT and the pop of the FIFO
(spec/40_register_ops.md R137, R168). -/

namespace Sys2Proof.Machine

/-! ### The acknowledge -/

/-- The acknowledge clears the written flags (40 R137). -/
theorem writeInt_intFlag (v : Word) (p : Params) (d : Device) {n : Nat} (hn : n < 15) :
    (writeInt v p d).intFlag n = (d.intFlag n && !v.getLsbD n) :=
  Device.clearInt_intFlag v d n hn

/-- The acknowledge of BUS_ERR invalidates ERRCODE (70 R346). -/
theorem writeInt_errcodeValid (v : Word) (p : Params) (d : Device) :
    (writeInt v p d).errcodeValid = if v.getLsbD p.intBusErr then false else d.errcodeValid := by
  unfold writeInt
  cases v.getLsbD p.intBusErr <;> simp

/-- Settles O14: the write leaves the device `writeInt` gives, which differs in the flags and in errcode_valid alone. -/
theorem intWriteClearsTheWrittenFlags : Obligations.IntWriteClearsTheWrittenFlags := by
  intro s v _
  obtain ⟨t, ht, -, hdev⟩ : WritesTo .int v s (writeInt v s.params s.dev) := writesTo_of rfl
  refine ⟨t, ht, fun n hn => ?_, ?_, ?_⟩
  · rw [hdev, writeInt_intFlag v _ _ hn]
  · rw [hdev, writeInt_errcodeValid]
  · simp only [hdev, writeInt, Device.clearInt]

/-! ### The pop of the FIFO -/

/-- Every read answers the register's value and leaves the device as after the read (20 R76). -/
theorem readInstr_answers (r : Reg) (s : State) :
    AnswersWith (readInstr r) s fun t =>
      t.result = .word (regValue r s.params s.dev (s.fresh 0)) ∧ t.dev = regAfterRead r s.dev :=
  ⟨_, (exec_readInstr r s).trans (directRead_eq r s), rfl, rfl⟩

theorem readRxport_of_nil {d : Device} (h : d.rxfifo = []) (fresh : Word) : readRxport d fresh = fresh := by
  simp only [readRxport, h]

theorem readRxport_of_cons {d : Device} {w : Word} {ws : List Word} {rest : List (List Word)}
    (h : d.rxfifo = (w :: ws) :: rest) (fresh : Word) : readRxport d fresh = w := by
  simp only [readRxport, h, List.headD_cons]

/-- The pop takes the head word, and the entry with its last word (40 R168). -/
theorem popFifo_cons (w : Word) (ws : List Word) (rest : List (List Word)) :
    popFifo ((w :: ws) :: rest) = if ws = [] then rest else ws :: rest := by
  cases ws <;> rfl

/-- On an empty FIFO the pop removes nothing (40 R168). -/
theorem regAfterRead_rxport_of_nil {d : Device} (h : d.rxfifo = []) (j : Fin 19) :
    regAfterRead (.rxport j) d = d := by
  have hpop : popFifo d.rxfifo = d.rxfifo := by rw [h, popFifo]
  simp only [regAfterRead, hpop]

/-- Settles O9, by the two cases of R168: the FIFO is empty, or its first entry has a head word. -/
theorem rxportReadPopsTheHeadWord : Obligations.RxportReadPopsTheHeadWord := by
  intro s j
  refine ⟨fun hnil => ?_, fun w ws rest hcons => ?_⟩
  · exact readsAs_of (regAfterRead_rxport_of_nil hnil j) (readRxport_of_nil hnil _)
  · obtain ⟨t, ht, hres, hdev⟩ := readInstr_answers (.rxport j) s
    refine ⟨t, ht, ?_, ?_⟩
    · rw [hres, regValue, readRxport_of_cons hcons]
    · rw [hdev, regAfterRead, hcons, popFifo_cons]

end Sys2Proof.Machine
end

