-- ==== Sys2Proof/Proofs/BitTiming.lean ====
section
/-! PROOF. The transmitter delay compensation offset (spec/41_bit_timing.md R184). -/

namespace Sys2Proof.Machine

/-- Up to the threshold there is no offset (41 R184). -/
theorem computeTdc_of_le {b : Word} (h : b.toNat ≤ 2200000) (c : Word) : computeTdc c b = none := if_pos h

/-- Above the threshold there is an offset, and the clamp to 63 makes it fit its byte (41 R184). -/
theorem computeTdc_of_lt {b : Word} (h : 2200000 < b.toNat) (c : Word) :
    ∃ o, computeTdc c b = some o ∧ o.toNat = min (c.toNat / b.toNat * 2 / 3) 63 := by
  refine ⟨_, if_neg (Nat.not_le.mpr h), ?_⟩
  rw [Nat.max_zero, BitVec.toNat_ofNat]
  exact Nat.mod_eq_of_lt (by omega)

/-- The offset does not rise with the bit rate: each operation on the quotient is monotone (41 R184). -/
theorem tdcOffset_antitone (c : Nat) {b b' : Nat} (hb : 0 < b) (h : b ≤ b') :
    min (c / b' * 2 / 3) 63 ≤ min (c / b * 2 / 3) 63 := by
  have hq : c / b' ≤ c / b := Nat.div_le_div_left h hb
  gcongr

/-- On a live handle compute_tdc answers the offset and changes nothing else (41 R184). -/
theorem exec_opComputeTdc {s : State} (hs : s.attached = .live) (c b : Word) :
    exec (.opComputeTdc c b) s = .next { s with core := .idle, result := .tdc (computeTdc c b) } :=
  withHandle_live hs

/-- Settles O26, by the two sides of the threshold; a higher bit rate is above it too, so its offset has the same formula. -/
theorem computeTdcAnswersTheOffset : Obligations.ComputeTdcAnswersTheOffset := by
  intro s c b hs
  refine ⟨_, exec_opComputeTdc hs c b, fun hle => computeTdc_of_le hle c, fun hlt => ?_⟩
  obtain ⟨o, ho, hval⟩ := computeTdc_of_lt hlt c
  refine ⟨o, ho, hval, fun b' o' hbb' ho' => ?_⟩
  obtain ⟨o₂, ho₂, hval'⟩ := computeTdc_of_lt (hlt.trans_le hbb') c
  obtain rfl : o' = o₂ := Option.some.inj (ho'.symm.trans ho₂)
  rw [hval, hval']
  exact tdcOffset_antitone c.toNat (Nat.zero_lt_of_lt hlt) hbb'

end Sys2Proof.Machine
end

