-- ==== Sys2Proof/Proofs/ModeControl.lean ====
section
/-! PROOF. The configuration that configure stores (spec/42_mode_control.md R196). -/

namespace Sys2Proof.Machine

/-- A configuration is valid when both of its timing records are (42 R196). -/
theorem CanConfig.valid_eq_true_iff (cfg : CanConfig) :
    CanConfig.valid cfg = true ↔ validNominal cfg.nominal = true ∧ validData cfg.data = true :=
  Bool.and_eq_true_iff

/-- One invalid timing record makes it invalid (42 R196). -/
theorem CanConfig.valid_eq_false_iff (cfg : CanConfig) :
    CanConfig.valid cfg = false ↔ validNominal cfg.nominal = false ∨ validData cfg.data = false :=
  Bool.and_eq_false_iff

/-- configure stores a valid configuration and answers ok (42 R196). -/
theorem opConfigure_of_valid {cfg : CanConfig} (h : CanConfig.valid cfg = true) (s : State) :
    opConfigure cfg s =
      { s with core := .idle, result := .ok, handle := { s.handle with config := some cfg } } :=
  if_pos h

/-- configure answers ConfigError for an invalid one and leaves the handle as it is (42 R196). -/
theorem opConfigure_of_invalid {cfg : CanConfig} (h : CanConfig.valid cfg = false) (s : State) :
    opConfigure cfg s = { s with core := .idle, result := .configError } :=
  if_neg (Bool.eq_false_iff.mp h)

/-- On a live handle configure runs (42 R196, R199). -/
theorem exec_opConfigure {s : State} (hs : s.attached = .live) (cfg : CanConfig) :
    exec (.opConfigure cfg) s = .next (opConfigure cfg s) :=
  withHandle_live hs

/-- Settles O35: the handle is live, so configure runs, and the two cases are the branches of its check. -/
theorem configureStoresOnlyValidTimings : Obligations.ConfigureStoresOnlyValidTimings := by
  intro s cfg hs
  rw [exec_opConfigure hs]
  constructor
  · intro hvalid
    rw [opConfigure_of_valid ((CanConfig.valid_eq_true_iff cfg).mpr hvalid)]
  · intro hinvalid
    rw [opConfigure_of_invalid ((CanConfig.valid_eq_false_iff cfg).mpr hinvalid)]

end Sys2Proof.Machine
end

