-- ==== Sys2Proof/Proofs/Requests.lean ====
section
/-! PROOF. The decoder and the taking of a request (spec/30_encoding.md R90 to R94, R111, spec/20_memory.md R75,
spec/60_exceptions.md R320 to R323). -/

namespace Sys2Proof

/-! ### The instructions by kind -/

/-- Case analysis on an instruction that takes the register accesses and the bus-engine events each as one case: the read or
the write of a register, an event, the reset pulse, or one of the fourteen core operations (30 R92 to R94). -/
theorem Instr.byKind {motive : Instr → Prop} (read : ∀ r, motive (readInstr r)) (write : ∀ r v, motive (writeInstr r v))
    (event : ∀ e, motive (Machine.busInstr e)) (pulse : motive .evResetPulse)
    (attach : motive .opAttach) (configure : ∀ cfg, motive (.opConfigure cfg)) (start : motive .opStart)
    (stop : motive .opStop) (transmit : ∀ f, motive (.opTransmit f)) (isr : motive .opIsr)
    (getBerrCounter : motive .opGetBerrCounter) (encodeNominal : ∀ t, motive (.opEncodeNominal t))
    (encodeData : ∀ t, motive (.opEncodeData t)) (computeTdc : ∀ c b, motive (.opComputeTdc c b))
    (enterReset : motive .opEnterReset) (enterNormal : motive .opEnterNormal) (receive : motive .opReceive)
    (detach : motive .opDetach) : ∀ i, motive i
  | .rdMode => read .mode | .wrMode v => write .mode v | .rdCmd => read .cmd | .wrCmd v => write .cmd v
  | .rdState => read .state | .wrState v => write .state v | .rdInt => read .int | .wrInt v => write .int v
  | .rdIntMask => read .intMask | .wrIntMask v => write .intMask v | .rdLostarb => read .lostarb
  | .wrLostarb v => write .lostarb v | .rdErrcode => read .errcode | .wrErrcode v => write .errcode v
  | .rdRxerrcnt => read .rxerrcnt | .wrRxerrcnt v => write .rxerrcnt v | .rdTxerrcnt => read .txerrcnt
  | .wrTxerrcnt v => write .txerrcnt v | .rdNbtp => read .nbtp | .wrNbtp v => write .nbtp v | .rdDbtp => read .dbtp
  | .wrDbtp v => write .dbtp v | .rdTdcr => read .tdcr | .wrTdcr v => write .tdcr v | .rdFdtxCtrl => read .fdtxCtrl
  | .wrFdtxCtrl v => write .fdtxCtrl v | .rdRxfifoCtrl => read .rxfifoCtrl | .wrRxfifoCtrl v => write .rxfifoCtrl v
  | .rdTxfic => read .txfic | .wrTxfic v => write .txfic v | .rdTxid => read .txid | .wrTxid v => write .txid v
  | .rdIdcode0 => read (.idcode 0) | .wrIdcode0 v => write (.idcode 0) v | .rdIdcode1 => read (.idcode 1)
  | .wrIdcode1 v => write (.idcode 1) v | .rdIdcode2 => read (.idcode 2) | .wrIdcode2 v => write (.idcode 2) v
  | .rdIdcode3 => read (.idcode 3) | .wrIdcode3 v => write (.idcode 3) v | .rdIdcode4 => read (.idcode 4)
  | .wrIdcode4 v => write (.idcode 4) v | .rdIdcode5 => read (.idcode 5) | .wrIdcode5 v => write (.idcode 5) v
  | .rdIdmask0 => read (.idmask 0) | .wrIdmask0 v => write (.idmask 0) v | .rdIdmask1 => read (.idmask 1)
  | .wrIdmask1 v => write (.idmask 1) v | .rdIdmask2 => read (.idmask 2) | .wrIdmask2 v => write (.idmask 2) v
  | .rdIdmask3 => read (.idmask 3) | .wrIdmask3 v => write (.idmask 3) v | .rdIdmask4 => read (.idmask 4)
  | .wrIdmask4 v => write (.idmask 4) v | .rdIdmask5 => read (.idmask 5) | .wrIdmask5 v => write (.idmask 5) v
  | .rdTxdat0 => read (.txdat 0) | .wrTxdat0 v => write (.txdat 0) v | .rdTxdat1 => read (.txdat 1)
  | .wrTxdat1 v => write (.txdat 1) v | .rdTxdat2 => read (.txdat 2) | .wrTxdat2 v => write (.txdat 2) v
  | .rdTxdat3 => read (.txdat 3) | .wrTxdat3 v => write (.txdat 3) v | .rdTxdat4 => read (.txdat 4)
  | .wrTxdat4 v => write (.txdat 4) v | .rdTxdat5 => read (.txdat 5) | .wrTxdat5 v => write (.txdat 5) v
  | .rdTxdat6 => read (.txdat 6) | .wrTxdat6 v => write (.txdat 6) v | .rdTxdat7 => read (.txdat 7)
  | .wrTxdat7 v => write (.txdat 7) v | .rdTxdat8 => read (.txdat 8) | .wrTxdat8 v => write (.txdat 8) v
  | .rdTxdat9 => read (.txdat 9) | .wrTxdat9 v => write (.txdat 9) v | .rdTxdat10 => read (.txdat 10)
  | .wrTxdat10 v => write (.txdat 10) v | .rdTxdat11 => read (.txdat 11) | .wrTxdat11 v => write (.txdat 11) v
  | .rdTxdat12 => read (.txdat 12) | .wrTxdat12 v => write (.txdat 12) v | .rdTxdat13 => read (.txdat 13)
  | .wrTxdat13 v => write (.txdat 13) v | .rdTxdat14 => read (.txdat 14) | .wrTxdat14 v => write (.txdat 14) v
  | .rdTxdat15 => read (.txdat 15) | .wrTxdat15 v => write (.txdat 15) v | .rdRxport j => read (.rxport j)
  | .wrRxport j v => write (.rxport j) v | .evRxArrive w a => event (.rxArrive w a)
  | .evRxReassert => event .rxReassert | .evTxComplete x => event (.txComplete x)
  | .evTxWithdraw x => event (.txWithdraw x) | .evBusError v => event (.busError v)
  | .evArbLost c => event (.arbLost c) | .evErrState r t w b rw rp => event (.errState r t w b rw rp)
  | .evOtherFlag n => event (.otherFlag n) | .evResetPulse => pulse | .opAttach => attach | .opStart => start
  | .opStop => stop | .opIsr => isr | .opGetBerrCounter => getBerrCounter | .opEnterReset => enterReset
  | .opEnterNormal => enterNormal | .opReceive => receive | .opDetach => detach | .opConfigure cfg => configure cfg
  | .opTransmit f => transmit f | .opEncodeNominal b => encodeNominal b | .opEncodeData b => encodeData b
  | .opComputeTdc c b => computeTdc c b

/-! ### Decoding what was encoded -/

theorem encode_readInstr (p : Params) (r : Reg) : encode p (readInstr r) = (readDesc p r, []) := by
  cases r
  case idcode k => fin_cases k <;> rfl
  case idmask k => fin_cases k <;> rfl
  case txdat k => fin_cases k <;> rfl
  all_goals rfl

theorem encode_writeInstr (p : Params) (r : Reg) (v : Word) : encode p (writeInstr r v) = (writeDesc p r, [v]) := by
  cases r
  case idcode k => fin_cases k <;> rfl
  case idmask k => fin_cases k <;> rfl
  case txdat k => fin_cases k <;> rfl
  all_goals rfl

/-- A request without words left over is what its descriptor decodes to (log 6). -/
theorem decodeRequest_of_decode {p : Params} {d : BitVec 16} {ws : List Word} {i : Instr}
    (h : decode p d ws = .ok (i, [])) : decodeRequest p d ws = .ok i := by
  rw [decodeRequest, h]

/-- In CLASS 00 and 01 the offset alone decides (30 R92). -/
theorem decodeReg_of_off {p : Params} {d : BitVec 16} {r : Reg} (h : p.Admissible) (ho : descOff d = p.off r)
    (hr : p.regAt (p.off r) = some r) : decodeReg p d = .ok r := by
  rw [decodeReg, ho, if_neg (by simp [(h.off r).1]), hr]

theorem decodeRequest_readDesc {p : Params} {r : Reg} (h : p.Admissible) (hr : p.regAt (p.off r) = some r) :
    decodeRequest p (readDesc p r) [] = .ok (readInstr r) := by
  obtain ⟨hz, hc, ho⟩ := Laws.Descriptor.readDesc_fields h r
  apply decodeRequest_of_decode
  simp [decode, hz, hc, decodeReg_of_off h ho hr]

theorem decodeRequest_writeDesc {p : Params} {r : Reg} (h : p.Admissible) (hr : p.regAt (p.off r) = some r) (v : Word) :
    decodeRequest p (writeDesc p r) [v] = .ok (writeInstr r v) := by
  obtain ⟨hz, hc, ho⟩ := Laws.Descriptor.writeDesc_fields h r
  apply decodeRequest_of_decode
  simp [decode, hz, hc, decodeReg_of_off h ho hr, readWord, withOperand]

/-- The first read port of an offset is the register found there: no other register has the offset of a read port, and the
ports are searched in rising order (00 R9, log 24). -/
theorem Params.Admissible.regAt_firstPort {p : Params} (h : p.Admissible) {j : Fin 19} (hj : p.firstPort j = true) :
    p.regAt (p.off (.rxport j)) = some (.rxport j) := by
  have hothers : ∀ r : Reg, r.isRxport = false → (p.off r == p.off (.rxport j)) = false := by
    intro r hr
    rcases (h.off r).2.2 (.rxport j) with rfl | ⟨hr', -⟩ | hne
    · cases hr
    · rw [hr] at hr'; cases hr'
    · exact beq_false_of_ne hne
  have hports : (List.finRange 19).find? (fun k => p.off (.rxport k) == p.off (.rxport j)) = some j := by
    rw [List.find?_eq_some_iff_getElem]
    refine ⟨beq_self_eq_true _, j.val, by simp, by simp, fun k hk => ?_⟩
    have hfirst := List.all_eq_true.mp hj ((List.finRange 19)[k]'(by simp; omega)) (List.getElem_mem _)
    rw [List.getElem_finRange] at hfirst ⊢
    simpa [bne, Fin.le_def, Nat.not_le.mpr hk] using hfirst
  have hbefore : ∀ rs : List Reg, (∀ r ∈ rs, r.isRxport = false) → rs.find? (fun r => p.off r == p.off (.rxport j)) = none :=
    fun rs hrs => List.find?_eq_none.mpr fun r hr => by simp [hothers r (hrs r hr)]
  rw [Params.regAt, Reg.all, List.find?_append, hbefore _ (by decide), List.find?_map, Function.comp_def, hports]
  rfl

/-- The register of a well-formed access is the one found at its offset (30 R92, log 24). -/
theorem Params.Admissible.regAt_of_wellFormed {p : Params} (h : p.Admissible) {r : Reg}
    (hr : ∀ j, r = .rxport j → p.firstPort j = true) : p.regAt (p.off r) = some r := by
  cases r with
  | rxport j => exact h.regAt_firstPort (hr j rfl)
  | _ => exact h.regAt_off rfl

theorem readConfig_configWords {c : CanConfig} (h : c.fits = true) : readConfig (configWords c) = .ok (c, []) := by
  obtain ⟨hn, hd⟩ := Bool.and_eq_true_iff.mp h
  simp only [configWords, List.append_assoc, readConfig, readTiming_timingWords hn, readTiming_timingWords hd,
    readFlag_flagWord]

/-- The four bytes of a word of four bytes (20 R74). -/
theorem wordBytes_append (a b c e : Byte) : wordBytes (e ++ c ++ b ++ a) = [a, b, c, e] := by
  have bytes : ∀ k, k < 4 → (e ++ c ++ b ++ a).extractLsb' (8 * k) 8 = [a, b, c, e].getD k 0 := by
    intro k hk
    apply BitVec.eq_of_getLsbD_eq
    intro i hi
    interval_cases k <;> simp [hi] <;> grind
  exact List.map_congr_left (l := [0, 1, 2, 3]) fun k hk => bytes k (by simp at hk; omega)

/-- Packed bytes come back in order, before the zeros that fill up the last word (log 6). -/
theorem prefix_flatMap_packBytes (bs : List Byte) : bs <+: (packBytes bs).flatMap wordBytes := by
  induction bs using packBytes.induct with
  | case5 a b c e rest ih =>
    rw [packBytes, List.flatMap_cons, wordBytes_append]
    exact (List.prefix_append_right_inj [a, b, c, e]).mpr ih
  | _ =>
    simp only [packBytes, List.flatMap_cons, List.flatMap_nil, wordBytes_append]
    simp

/-- The flags word has the four flags as its low bits, and nothing above them (log 6). -/
theorem frameFlags_bits (f : Frame) :
    (frameFlags f).extractLsb' 4 28 = 0#28 ∧ (frameFlags f).getLsbD 0 = f.isExtended
      ∧ (frameFlags f).getLsbD 1 = f.isRemote ∧ (frameFlags f).getLsbD 2 = f.isFd
      ∧ (frameFlags f).getLsbD 3 = f.bitRateSwitch := by
  unfold frameFlags
  cases f.isExtended <;> cases f.isRemote <;> cases f.isFd <;> cases f.bitRateSwitch <;> decide

theorem readFrame_frameWords {f : Frame} (h : f.fits = true) : readFrame (frameWords f) = .ok (f, []) := by
  simp only [Frame.fits, fitsWord, Bool.and_eq_true, decide_eq_true_eq] at h
  obtain ⟨hlen, hcount⟩ := h
  obtain ⟨hz, h0, h1, h2, h3⟩ := frameFlags_bits f
  have hpay : ((packBytes f.payload).flatMap wordBytes).take f.payload.length = f.payload :=
    (List.prefix_iff_eq_take.mp (prefix_flatMap_packBytes f.payload)).symm
  have hn : (BitVec.ofNat 32 f.payload.length).toNat = f.payload.length := by
    simpa using Nat.mod_eq_of_lt hcount
  have hl : (BitVec.ofNat 32 f.length).toNat = f.length := by simpa using Nat.mod_eq_of_lt hlen
  simp only [frameWords, List.cons_append, List.nil_append, readFrame, hz, h0, h1, h2, h3, hn, hl,
    ← packBytes_length f.payload, List.take_length, List.drop_length, hpay, ne_eq, not_true, if_false, Nat.lt_irrefl]

theorem readArrival_words (w : Vector Word 19) (a : Bool) :
    readArrival (w.toList ++ [flagWord a]) = .ok ((w, a), []) := by
  have ht : (w.toList ++ [flagWord a]).take 19 = w.toList := List.take_left' (by simp)
  have hd : (w.toList ++ [flagWord a]).drop 19 = [flagWord a] := List.drop_left' (by simp)
  simp only [readArrival, ht, hd, readFlag_flagWord, Vector.length_toList, dite_true]
  rfl

theorem readOther_ofNat (n : Fin 8) : readOther (BitVec.ofNat 32 n.val) = .ok n := by
  revert n; decide

theorem readAs_cons {α : Type} {g : Word → Except DecodeError α} {w : Word} {a : α} (h : g w = .ok a) (rest : List Word) :
    readAs g (w :: rest) = .ok (a, rest) := by
  rw [readAs, h]

/-- CLASS 10 decodes by the operation number (30 R93). -/
theorem decodeRequest_of_op {p : Params} {ws : List Word} {i : Instr} (d : BitVec 16) (n : BitVec 8)
    (hd : descZ d = 0#2 ∧ descClass d = 2#2 ∧ descZ2 d = 0#4 ∧ descOpn d = n) (h : decodeOp n ws = .ok (i, [])) :
    decodeRequest p d ws = .ok i := by
  obtain ⟨hz, hc, hz2, rfl⟩ := hd
  exact decodeRequest_of_decode (by simp [decode, hz, hc, hz2, h])

/-- CLASS 11 decodes by the event number (30 R94). -/
theorem decodeRequest_of_event {p : Params} {ws : List Word} {i : Instr} (d : BitVec 16) (n : BitVec 8)
    (hd : descZ d = 0#2 ∧ descClass d = 3#2 ∧ descZ2 d = 0#4 ∧ descOpn d = n) (h : decodeEvent n ws = .ok (i, [])) :
    decodeRequest p d ws = .ok i := by
  obtain ⟨hz, hc, hz2, rfl⟩ := hd
  exact decodeRequest_of_decode (by simp [decode, hz, hc, hz2, h])

/-- The descriptor and operand words of a bus-engine event decode to the event (30 R94, log 6). -/
theorem decodeRequest_busInstr (p : Params) (e : BusEvent) :
    decodeRequest p (encode p (Machine.busInstr e)).1 (encode p (Machine.busInstr e)).2 = .ok (Machine.busInstr e) := by
  cases e with
  | rxArrive w a =>
    exact decodeRequest_of_event 0xC001 1 (by decide)
      (congrArg (withOperand fun x : Vector Word 19 × Bool => .evRxArrive x.1 x.2) (readArrival_words w a))
  | rxReassert => exact decodeRequest_of_event 0xC002 2 (by decide) rfl
  | txComplete x =>
    exact decodeRequest_of_event 0xC003 3 (by decide) (congrArg (withOperand .evTxComplete) (readAs_cons (readSlot_slotWord x) []))
  | txWithdraw x =>
    exact decodeRequest_of_event 0xC004 4 (by decide) (congrArg (withOperand .evTxWithdraw) (readAs_cons (readSlot_slotWord x) []))
  | busError v => exact decodeRequest_of_event 0xC005 5 (by decide) rfl
  | arbLost c => exact decodeRequest_of_event 0xC006 6 (by decide) rfl
  | errState r t w b rw rp =>
    exact decodeRequest_of_event 0xC007 7 (by decide)
      (by simp only [Machine.busInstr, encode, operandWords, decodeEvent, readErrState, readFlag_flagWord]; rfl)
  | otherFlag n =>
    exact decodeRequest_of_event 0xC008 8 (by decide) (congrArg (withOperand .evOtherFlag) (readAs_cons (readOther_ofNat n) []))

/-- Settles O1. An access is decoded from its offset, which names the register under an admissible assignment; an event or
an operation from its number, and its operand words read back as the record they were written from. -/
theorem decodeOfEncodeIsTheInstruction : Obligations.DecodeOfEncodeIsTheInstruction := by
  intro p i hp hw
  induction i using Instr.byKind with
  | read r =>
    rw [encode_readInstr]
    exact decodeRequest_readDesc hp (hp.regAt_of_wellFormed (by rintro j rfl; exact hw))
  | write r v =>
    rw [encode_writeInstr]
    exact decodeRequest_writeDesc hp (hp.regAt_of_wellFormed (by rintro j rfl; exact hw)) v
  | event e => exact decodeRequest_busInstr p e
  | pulse => exact decodeRequest_of_event 0xC000 0 (by decide) rfl
  | attach => exact decodeRequest_of_op 0x8001 1 (by decide) rfl
  | configure cfg =>
    exact decodeRequest_of_op 0x8002 2 (by decide) (congrArg (withOperand .opConfigure) (readConfig_configWords hw))
  | start => exact decodeRequest_of_op 0x8003 3 (by decide) rfl
  | stop => exact decodeRequest_of_op 0x8004 4 (by decide) rfl
  | transmit f =>
    exact decodeRequest_of_op 0x8005 5 (by decide) (congrArg (withOperand .opTransmit) (readFrame_frameWords hw))
  | isr => exact decodeRequest_of_op 0x8006 6 (by decide) rfl
  | getBerrCounter => exact decodeRequest_of_op 0x8007 7 (by decide) rfl
  | encodeNominal t =>
    exact decodeRequest_of_op 0x8008 8 (by decide) (congrArg (withOperand .opEncodeNominal) (readTiming_timingWords hw []))
  | encodeData t =>
    exact decodeRequest_of_op 0x8009 9 (by decide) (congrArg (withOperand .opEncodeData) (readTiming_timingWords hw []))
  | computeTdc c b => exact decodeRequest_of_op 0x800A 10 (by decide) rfl
  | enterReset => exact decodeRequest_of_op 0x800B 11 (by decide) rfl
  | enterNormal => exact decodeRequest_of_op 0x800C 12 (by decide) rfl
  | receive => exact decodeRequest_of_op 0x800D 13 (by decide) rfl
  | detach => exact decodeRequest_of_op 0x800E 14 (by decide) rfl

/-- Settles O2, by evaluating the decoder on the eleven words. -/
theorem writtenOutDescriptorsDecode : Obligations.WrittenOutDescriptorsDecode := by
  unfold Obligations.WrittenOutDescriptorsDecode
  decide
end Sys2Proof

namespace Sys2Proof.Machine

/-! ### Taking a request -/

/-- Without a recorded fault a step takes the first request (log 7). -/
theorem step_of_request {s : State} {q : Request} {rest : List Request} (hf : s.fault = none)
    (hi : s.inbox = q :: rest) : step s = runRequest q (s.setInbox rest) := by
  rw [step, hf]
  simp only [takeRequest, hi]

/-- A core-only request by the host is refused whatever its operand words (30 R111, log 10). -/
theorem runRequest_of_unassigned {q : Request} {s : State} (hc : q.issuer = .host → s.core = .idle)
    (hp : permission q.issuer q.desc = .unassigned) :
    runRequest q s = .next (refuse .unassignedDescriptor s) := by
  rw [runRequest, if_neg (fun h => h.2 (hc h.1)), if_pos hp]

/-- Any other request that does not decode is rejected for its error. -/
theorem runRequest_of_error {q : Request} {s : State} {e : DecodeError} (hc : q.issuer = .host → s.core = .idle)
    (hp : permission q.issuer q.desc ≠ .unassigned) (hd : decode s.params q.desc q.operands = .error e) :
    runRequest q s = rejectRequest q.issuer e s := by
  rw [runRequest, if_neg (fun h => h.2 (hc h.1)), if_neg hp, decodeRequest, hd]

/-- Settles O4: the request's checks all pass, so the step is exec of the decoded instruction. -/
theorem stepRunsTheDecodedInstruction : Obligations.StepRunsTheDecodedInstruction := by
  intro s q rest i hf hi hc hp hd
  rw [step_of_request hf hi, runRequest, if_neg (fun h => h.2 (hc h.1)), if_neg (by simp [hp]), State.setInbox_params, hd]
  exact if_pos hp

/-! ### Descriptors that name nothing -/

/-- A descriptor with Z nonzero is rejected for it (30 R90). -/
theorem decode_of_z {d : BitVec 16} (h : descZ d ≠ 0#2) (p : Params) (ws : List Word) :
    decode p d ws = .error .zNonzero := by rw [decode, if_pos h]

/-- An offset that is misaligned or names no register is rejected as the one or the other (30 R111). -/
theorem decodeReg_of_bad_off {p : Params} {d : BitVec 16} (h : descOff d % 4 ≠ 0 ∨ ∀ r, p.off r ≠ descOff d) :
    decodeReg p d = .error (.misaligned (descOff d)) ∨ decodeReg p d = .error (.noRegister (descOff d)) := by
  by_cases ho : descOff d % 4 ≠ 0
  · exact .inl (by rw [decodeReg, if_pos ho])
  · exact .inr (by rw [decodeReg, if_neg ho, Params.regAt_eq_none.mpr (h.resolve_left ho)])

/-- An access at such an offset is rejected so (30 R111). -/
theorem decode_of_bad_off {p : Params} {d : BitVec 16} (hz : descZ d = 0#2) (hc : descClass d = 0#2 ∨ descClass d = 1#2)
    (h : descOff d % 4 ≠ 0 ∨ ∀ r, p.off r ≠ descOff d) (ws : List Word) :
    decode p d ws = .error (.misaligned (descOff d)) ∨ decode p d ws = .error (.noRegister (descOff d)) := by
  rcases hc with hc | hc <;> rcases decodeReg_of_bad_off h with h | h <;> simp [decode, hz, hc, h]

/-- In CLASS 10 and 11, Z2 nonzero is rejected for it (30 R90). -/
theorem decode_of_z2 {d : BitVec 16} (hz : descZ d = 0#2) (hc : descClass d = 2#2 ∨ descClass d = 3#2)
    (h : descZ2 d ≠ 0#4) (p : Params) (ws : List Word) : decode p d ws = .error .z2Nonzero := by
  rcases hc with hc | hc <;> simp [decode, hz, hc, h]

/-- A number outside 1 to 0x0E names no core operation (30 R93, R111). -/
theorem decodeOp_of_unassigned {n : BitVec 8} (h : n = 0#8 ∨ 0x0E < n.toNat) (ws : List Word) :
    decodeOp n ws = .error (.unassignedOp n.toNat) := by
  have hn : n.toNat = 0 ∨ 0x0E < n.toNat := h.imp_left (congrArg BitVec.toNat)
  unfold decodeOp
  split
  case h_15 => rfl
  all_goals omega

/-- A number above 8 names no device event (30 R94, R111). -/
theorem decodeEvent_of_unassigned {n : BitVec 8} (h : 0x08 < n.toNat) (ws : List Word) :
    decodeEvent n ws = .error (.unassignedEvent n.toNat) := by
  unfold decodeEvent
  split
  case h_10 => rfl
  all_goals omega

/-- The errors for which a request of an issuer is refused with UnassignedDescriptor: not those about operand words, and of
the core not those about an offset (30 R111, 20 R75). -/
def refusedErrors (who : Issuer) (e : DecodeError) : Prop :=
  e = .zNonzero ∨ e = .z2Nonzero ∨ (∃ n, e = .unassignedOp n) ∨ (∃ n, e = .unassignedEvent n)
    ∨ who ≠ .core ∧ ∃ off, e = .misaligned off ∨ e = .noRegister off

theorem rejectRequest_of_refused {who : Issuer} {e : DecodeError} (h : refusedErrors who e) (s : State) :
    rejectRequest who e s = .next (refuse .unassignedDescriptor s) := by
  rcases h with rfl | rfl | ⟨n, rfl⟩ | ⟨n, rfl⟩ | ⟨hw, off, rfl | rfl⟩
  case inr.inr.inr.inr.inl | inr.inr.inr.inr.inr => simp only [rejectRequest, if_neg hw]
  all_goals rfl

/-- 30 R111: an illegal descriptor is a core-only one of the host, or it does not decode, for one of those errors. -/
theorem illegal_descriptor {p : Params} {q : Request}
    (h : descZ q.desc ≠ 0#2
      ∨ q.issuer ≠ .core ∧ (descClass q.desc = 0#2 ∨ descClass q.desc = 1#2)
          ∧ (descOff q.desc % 4 ≠ 0 ∨ ∀ r, p.off r ≠ descOff q.desc)
      ∨ (descClass q.desc = 2#2 ∨ descClass q.desc = 3#2) ∧ descZ2 q.desc ≠ 0#4
      ∨ descClass q.desc = 2#2 ∧ (descOpn q.desc = 0#8 ∨ 0x0E < (descOpn q.desc).toNat)
      ∨ descClass q.desc = 3#2 ∧ 0x08 < (descOpn q.desc).toNat
      ∨ q.issuer = .host ∧ descClass q.desc = 2#2 ∧ 0x0B ≤ (descOpn q.desc).toNat ∧ (descOpn q.desc).toNat ≤ 0x0D
      ∨ q.issuer = .host ∧ descClass q.desc = 3#2 ∧ descOpn q.desc = 0#8) :
    permission q.issuer q.desc = .unassigned
      ∨ ∃ e, decode p q.desc q.operands = .error e ∧ refusedErrors q.issuer e := by
  by_cases hz : descZ q.desc = 0#2
  case neg => exact .inr ⟨_, decode_of_z hz p _, .inl rfl⟩
  by_cases hz2 : (descClass q.desc = 2#2 ∨ descClass q.desc = 3#2) ∧ descZ2 q.desc ≠ 0#4
  case pos => exact .inr ⟨_, decode_of_z2 hz hz2.1 hz2.2 p _, .inr (.inl rfl)⟩
  rcases h with h | ⟨hw, hc, ho⟩ | h | ⟨hc, ho⟩ | ⟨hc, ho⟩ | ⟨hw, hc, hlo, hhi⟩ | ⟨hw, hc, ho⟩
  · exact absurd hz h
  · right
    rcases decode_of_bad_off hz hc ho q.operands with hd | hd
    · exact ⟨_, hd, .inr (.inr (.inr (.inr ⟨hw, _, .inl rfl⟩)))⟩
    · exact ⟨_, hd, .inr (.inr (.inr (.inr ⟨hw, _, .inr rfl⟩)))⟩
  · exact absurd h hz2
  · have hz2 : descZ2 q.desc = 0#4 := by simpa [hc] using hz2
    exact .inr ⟨_, by simp [decode, hz, hc, hz2, decodeOp_of_unassigned ho]; rfl, .inr (.inr (.inl ⟨_, rfl⟩))⟩
  · have hz2 : descZ2 q.desc = 0#4 := by simpa [hc] using hz2
    exact .inr ⟨_, by simp [decode, hz, hc, hz2, decodeEvent_of_unassigned ho]; rfl, .inr (.inr (.inr (.inl ⟨_, rfl⟩)))⟩
  · left
    have hopn : descOpn q.desc = 0x0B#8 ∨ descOpn q.desc = 0x0C#8 ∨ descOpn q.desc = 0x0D#8 := by bv_omega
    have hpure : ¬(descOpn q.desc = 0x08#8 ∨ descOpn q.desc = 0x09#8 ∨ descOpn q.desc = 0x0A#8) := by bv_omega
    simp [permission, invokedBy, hw, hc, hopn, hpure]
  · left
    simp [permission, invokedBy, hw, hc, ho]

/-- Settles O3: whichever clause holds, the request is refused before any instruction runs. -/
theorem illegalDescriptorsAreRefused : Obligations.IllegalDescriptorsAreRefused := by
  intro s q rest hf hcore hi h
  have hrefused : runRequest q (s.setInbox rest) = .next (refuse .unassignedDescriptor (s.setInbox rest)) := by
    by_cases hp : permission q.issuer q.desc = .unassigned
    · exact runRequest_of_unassigned (fun _ => hcore) hp
    · obtain ⟨e, hd, he⟩ := (illegal_descriptor h).resolve_left hp
      rw [runRequest_of_error (s := s.setInbox rest) (fun _ => hcore) hp hd, rejectRequest_of_refused he]
  rw [step_of_request hf hi, hrefused, refuse_eq, ← hcore]
  rfl

/-- Settles O5: the offset is rejected as misaligned or as no register, for the core both record the fault; and a recorded
fault is all a step looks at. -/
theorem unmappedCoreAccessEndsTheInstance : Obligations.UnmappedCoreAccessEndsTheInstance := by
  refine ⟨fun s q rest hf hi hcore hz hc ho => ?_, fun s off hf => by rw [step, hf]⟩
  have hp : permission q.issuer q.desc ≠ .unassigned := by
    rcases hc with hc | hc <;> simp [permission, invokedBy, hcore, hc]
  have hhost : q.issuer = .host → (s.setInbox rest).core = .idle := by simp [hcore]
  rw [step_of_request hf hi]
  rcases decode_of_bad_off hz hc ho q.operands with hd | hd
  · rw [runRequest_of_error hhost hp hd, rejectRequest, if_pos hcore]; rfl
  · rw [runRequest_of_error hhost hp hd, rejectRequest, if_pos hcore]; rfl

end Sys2Proof.Machine
end

