-- ==== Sys2Proof/Proofs/RegisterFields.lean ====
section
/-! PROOF. The register reads and writes (spec/40_register_ops.md, spec/20_memory.md R76, R77). -/

namespace Sys2Proof.Machine

/-! ### Reads -/

/-- Settles O6: the value of such a register is the stored word itself, and its read has no side effect. -/
theorem storedRegistersReadBack : Obligations.StoredRegistersReadBack := fun _ =>
  ⟨readsAs_of rfl rfl, readsAs_of rfl rfl, readsAs_of rfl rfl, readsAs_of rfl rfl, fun _ => readsAs_of rfl rfl,
    fun _ => readsAs_of rfl rfl, readsAs_of rfl rfl, readsAs_of rfl rfl, fun _ => readsAs_of rfl rfl⟩

/-- MODE reads its five fields (40 R130). -/
theorem readsBits_mode {s : State} (hp : s.params.Admissible) :
    ReadsBits .mode s [(s.params.modeWork, s.dev.mode.work), (s.params.modeLoopback, s.dev.mode.loopback),
      (s.params.modeSelftest, s.dev.mode.selftest), (s.params.modeAutoretx, s.dev.mode.autoretx),
      (s.params.modeFd, s.dev.mode.fd)] := by
  have := hp.mode
  refine readsBits_of_withRsv (m := modeMask s.params) (w := modeBits s.params s.dev.mode) rfl rfl ?_ ?_
  · simp only [modeMask, modeBits, BitVec.getLsbD_or, bit_getLsbD, bitIf_getLsbD, List.forall_mem_cons]
    grind
  · simp only [modeMask, BitVec.getLsbD_or, bit_getLsbD, List.exists_mem_cons_iff]
    grind

/-- CMD reads the two request bits (40 R132). -/
theorem readsBits_cmd {s : State} (hp : s.params.Admissible) :
    ReadsBits .cmd s [(s.params.cmdTxreq0, s.dev.req0), (s.params.cmdTxreq1, s.dev.req1)] := by
  have := hp.cmd
  refine readsBits_of_withRsv (m := cmdMask s.params) (w := cmdBits s.params s.dev) rfl rfl ?_ ?_
  · simp only [cmdMask, cmdBits, BitVec.getLsbD_or, bit_getLsbD, bitIf_getLsbD, List.forall_mem_cons]
    grind
  · simp only [cmdMask, BitVec.getLsbD_or, bit_getLsbD, List.exists_mem_cons_iff]
    grind

/-- STATE reads the two levels (40 R134). -/
theorem readsBits_state {s : State} (hp : s.params.Admissible) :
    ReadsBits .state s [(s.params.stateErrwarn, s.dev.errwarn), (s.params.stateBusoff, s.dev.busoff)] := by
  have := hp.state
  refine readsBits_of_withRsv (m := stateMask s.params) (w := stateBits s.params s.dev) rfl rfl ?_ ?_
  · simp only [stateMask, stateBits, BitVec.getLsbD_or, bit_getLsbD, bitIf_getLsbD, List.forall_mem_cons]
    grind
  · simp only [stateMask, BitVec.getLsbD_or, bit_getLsbD, List.exists_mem_cons_iff]
    grind

/-- The mask of INT is its low fifteen bits (40 R136). -/
theorem intMask_getLsbD (n : Nat) : (0x7FFF#32).getLsbD n = decide (n < 15) := by
  rw [show 0x7FFF#32 = fieldMask 0 15 from rfl, fieldMask_getLsbD]
  grind

/-- INT reads the fifteen flags (40 R136). -/
theorem readsBits_int (s : State) : ReadsBits .int s ((List.range 15).map fun n => (n, s.dev.intFlag n)) := by
  refine readsBits_of_withRsv (m := 0x7FFF#32) (w := s.dev.int.setWidth 32) rfl rfl ?_ ?_
  · simp only [List.mem_map, List.mem_range, forall_exists_index, and_imp]
    rintro _ n hn rfl
    simp [intMask_getLsbD, hn, Device.intFlag, Nat.lt_trans hn]
  · intro i _ hi
    exact ⟨(i, s.dev.intFlag i), List.mem_map_of_mem (by simpa [intMask_getLsbD] using hi), rfl⟩

/-- TDCR reads EN and the six bits of TDCO (40 R156). -/
theorem readsBits_tdcr {s : State} (hp : s.params.Admissible) :
    ReadsBits .tdcr s ((s.params.tdcrEn, s.dev.tdcEn)
      :: (List.range 6).map fun k => (s.params.tdcrTdcoSh + k, s.dev.tdco.getLsbD k)) := by
  have := hp.tdcr
  refine readsBits_of_withRsv (m := tdcrMask s.params) (w := tdcrBits s.params s.dev) rfl rfl ?_ ?_
  · simp only [List.forall_mem_cons, List.mem_map, List.mem_range, forall_exists_index, and_imp, tdcrMask, tdcrBits,
      BitVec.getLsbD_or, bit_getLsbD, bitIf_getLsbD, fieldMask_getLsbD, BitVec.getLsbD_shiftLeft, BitVec.getLsbD_setWidth]
    refine ⟨by grind, ?_⟩
    rintro _ k hk rfl
    grind
  · intro i hi hm
    have hi' : i = s.params.tdcrEn ∨ s.params.tdcrTdcoSh ≤ i ∧ i < s.params.tdcrTdcoSh + 6 := by
      simp only [tdcrMask, BitVec.getLsbD_or, bit_getLsbD, fieldMask_getLsbD] at hm
      grind
    rcases hi' with rfl | ⟨hlo, hhi⟩
    · exact ⟨_, List.mem_cons_self, rfl⟩
    · exact ⟨_, List.mem_cons_of_mem _ (List.mem_map_of_mem (List.mem_range.mpr (by omega : i - s.params.tdcrTdcoSh < 6))),
        Nat.add_sub_cancel' hlo⟩

/-- A register with one enable bit reads it (40 R158, R160). -/
theorem readsBits_enable {s : State} {r : Reg} {n : Nat} {b : Bool} (hr : r.isRxport = false) (hn : n < 32)
    (h : regValue r s.params s.dev (s.fresh 0) = withRsv (bit n) (bitIf b n) (s.fresh 0)) : ReadsBits r s [(n, b)] := by
  refine readsBits_of_withRsv hr h ?_ ?_
  · simp [bit_getLsbD, bitIf_getLsbD, hn]
  · intro i _ hi
    rw [bit_getLsbD] at hi
    exact ⟨_, List.mem_singleton_self _, by simp at hi; exact hi.2.symm⟩

/-- Settles O7, register by register: each reads as its mask, its word and the draw. -/
theorem fieldRegistersReadTheirFields : Obligations.FieldRegistersReadTheirFields := fun s hp =>
  ⟨readsBits_mode hp, readsBits_cmd hp, readsBits_state hp, readsBits_int s, readsBits_tdcr hp,
    readsBits_enable rfl (hp.parts).2.2.2.2.2.2.2.2.2.1 rfl, readsBits_enable rfl (hp.parts).2.2.2.2.2.2.2.2.2.2.1 rfl⟩

/-- The bits of a field are those of the word at the field's positions. -/
theorem mem_bitsFrom_iff {w : Word} {lo n : Nat} {b : Nat × Bool} :
    b ∈ bitsFrom w lo n ↔ lo ≤ b.1 ∧ b.1 < lo + n ∧ b.2 = w.getLsbD b.1 := by
  rw [mem_bitsFrom]
  constructor
  · rintro ⟨k, hk, rfl⟩
    exact ⟨by simp, by simpa using hk, rfl⟩
  · rintro ⟨hlo, hhi, hb⟩
    exact ⟨b.1 - lo, by omega, Prod.ext (by simp; omega) (by rw [hb]; congr; omega)⟩

/-- DBTP reads as any word that agrees with the stored one in the fields (40 R154). -/
theorem readsBits_dbtp {s : State} (hp : s.params.Admissible) {w : Word}
    (hw : ∀ i, (dbtpMask s.params).getLsbD i = true → s.dev.dbtp.getLsbD i = w.getLsbD i) :
    ReadsBits .dbtp s (bitsFrom w s.params.dbtpTseg1Sh 5 ++ bitsFrom w s.params.dbtpTseg2Sh 4
      ++ bitsFrom w s.params.dbtpBrpSh 8 ++ bitsFrom w s.params.dbtpSjwSh 4 ++ bitsFrom w s.params.dbtpSam 1) := by
  have hfit := hp.dbtp.1
  refine readsBits_of_withRsv (m := dbtpMask s.params) (w := s.dev.dbtp) rfl rfl (fun b hb => ?_) (fun i hi hm => ?_)
  · have hm : (dbtpMask s.params).getLsbD b.1 = true := by
      simp only [List.mem_append, mem_bitsFrom_iff] at hb
      simp only [dbtpMask, BitVec.getLsbD_or, fieldMask_getLsbD, bit_getLsbD]
      grind
    refine ⟨hm, ?_⟩
    rw [hw _ hm]
    simp only [List.mem_append, mem_bitsFrom_iff] at hb
    tauto
  · refine ⟨(i, w.getLsbD i), ?_, rfl⟩
    simp only [dbtpMask, BitVec.getLsbD_or, fieldMask_getLsbD, bit_getLsbD] at hm
    simp only [List.mem_append, mem_bitsFrom_iff]
    grind

/-- A valid ERRCODE reads its fields (40 R142). -/
theorem readsBits_errcode {s : State} (hp : s.params.Admissible)
    (h : s.params.errcodeAckInvalidates = false ∨ s.dev.errcodeValid = true) :
    ReadsBits .errcode s (bitsFrom s.dev.errcode s.params.errcodeType 3
      ++ bitsFrom s.dev.errcode s.params.errcodeDir 1 ++ bitsFrom s.dev.errcode s.params.errcodeLoc 16) := by
  have hfit := hp.errcode
  have hval : regValue .errcode s.params s.dev (s.fresh 0) = withRsv (errcodeMask s.params) s.dev.errcode (s.fresh 0) :=
    if_neg (by rcases h with h | h <;> simp [h])
  refine readsBits_of_withRsv rfl hval (fun b hb => ?_) (fun i hi hm => ?_)
  · simp only [List.mem_append, mem_bitsFrom_iff] at hb
    simp only [errcodeMask, BitVec.getLsbD_or, fieldMask_getLsbD, bit_getLsbD]
    grind
  · refine ⟨(i, s.dev.errcode.getLsbD i), ?_, rfl⟩
    simp only [errcodeMask, BitVec.getLsbD_or, fieldMask_getLsbD, bit_getLsbD] at hm
    simp only [List.mem_append, mem_bitsFrom_iff]
    grind

/-- Settles O8: NBTP has no bit outside its fields, DBTP and a valid ERRCODE read their fields, and an acknowledged ERRCODE
is the draw. -/
theorem timingAndErrorRegistersReadTheirFields : Obligations.TimingAndErrorRegistersReadTheirFields := fun _ hp =>
  ⟨readsAs_of rfl (withRsv_of_mask (nbtpMask_eq hp) _ _), readsBits_dbtp hp fun _ _ => rfl, readsBits_errcode hp,
    fun hack hvalid => readsAs_of rfl (if_pos (by simp [hack, hvalid]))⟩

/-- Settles O10, from the shared read and write: the frame is theirs, whatever the register. -/
theorem accessesChangeNothingElse : Obligations.AccessesChangeNothingElse := by
  constructor
  · intro s t r h
    rw [exec_readInstr, directRead_eq] at h
    obtain rfl := Host.Outcome.next.inj h
    refine ⟨_, rfl, fun hr => regAfterRead_of_not_rxport hr s.dev, fun hr => ?_⟩
    cases r with
    | rxport j => rfl
    | _ => cases hr
  · intro s t r v h
    rw [exec_writeInstr, directWrite_eq] at h
    obtain rfl := Host.Outcome.next.inj h
    rfl

/-! ### Writes -/

/-- Settles O11: the rule of such a register stores the whole word, and of a read-only one leaves the device. -/
theorem wholeWordRegistersTakeOrIgnoreTheWord : Obligations.WholeWordRegistersTakeOrIgnoreTheWord := fun _ _ =>
  ⟨writesTo_of rfl, fun _ => writesTo_of rfl, fun _ => writesTo_of rfl, writesTo_of rfl, writesTo_of rfl, writesTo_of rfl,
    fun _ => writesTo_of rfl, writesTo_of rfl, writesTo_of rfl, writesTo_of rfl, writesTo_of rfl, writesTo_of rfl,
    fun _ => writesTo_of rfl⟩

/-- Settles O12: MODE, TDCR and the enables by their rules; DBTP stores the word's bits under its mask, which is all that
its read shows. -/
theorem fieldRegistersTakeTheirFields : Obligations.FieldRegistersTakeTheirFields := by
  intro s v hp
  refine ⟨writesTo_of rfl, ⟨v.extractLsb' s.params.tdcrTdcoSh 6, fun k hk => by simp [hk], writesTo_of rfl⟩,
    writesTo_of rfl, writesTo_of rfl, _, (exec_writeInstr .dbtp v s).trans (directWrite_eq .dbtp v s), rfl, ?_⟩
  refine readsBits_dbtp (s := { s with
    dev := regWrite .dbtp v s.params s.dev, result := .written,
    trace := s.trace ++ [.access .write (s.params.off .dbtp) v] }) hp fun i hi => ?_
  simp only [regWrite, BitVec.getLsbD_and, hi, Bool.and_true]

/-- What a write of CMD leaves, as one device (40 R133). -/
theorem writeCmd_eq (v : Word) (p : Params) (d : Device) :
    writeCmd v p d =
      let r0 := v.getLsbD p.cmdTxreq0
      let r1 := v.getLsbD p.cmdTxreq1
      let clear := !r0 && !r1 && p.cmdZeroWrite == .clearsAll
      { d with
        req0 := (d.req0 || r0) && !clear
        req1 := (d.req1 || r1) && !clear
        slot0 := if r0 then .queued d.staging d.slot0.pending else d.slot0
        slot1 := if r1 then .queued d.staging d.slot1.pending else d.slot1 } := by
  cases h0 : v.getLsbD p.cmdTxreq0 <;> cases h1 : v.getLsbD p.cmdTxreq1
  case false.false =>
    have hkeep : (CmdZeroWrite.noEffect == .clearsAll) = false := rfl
    cases hz : p.cmdZeroWrite <;> simp [writeCmd, h0, h1, hz, hkeep]
  all_goals simp [writeCmd, h0, h1, requestIf, Device.request, Device.staging]

/-- Settles O13. -/
theorem cmdWriteRequestsOrClears : Obligations.CmdWriteRequestsOrClears := by
  intro s v
  obtain ⟨t, ht, -, hdev⟩ : WritesTo .cmd v s (writeCmd v s.params s.dev) := writesTo_of rfl
  exact ⟨t, ht, hdev.trans (writeCmd_eq v s.params s.dev)⟩

/-- A write of one register leaves what every other register answers, but that the acknowledge may invalidate ERRCODE
(20 R77, 70 R346). -/
theorem regValue_regWrite {r r' : Reg} (hne : r ≠ r') (hack : r ≠ .int ∨ r' ≠ .errcode) (v : Word) (p : Params)
    (d : Device) (f : Word) : regValue r' p (regWrite r v p d) f = regValue r' p d f := by
  cases r
  case state | lostarb | errcode | rxerrcnt | txerrcnt | rxport => rfl
  case cmd =>
    rw [regWrite, writeCmd_eq]
    cases r'
    case cmd => contradiction
    all_goals rfl
  case int =>
    cases r'
    case int | errcode => simp at hne hack
    all_goals rfl
  case idcode k =>
    cases r'
    case idcode k' => exact Vector.getElem_set_ne k.isLt k'.isLt fun h => hne (congrArg Reg.idcode (Fin.ext h))
    all_goals rfl
  case idmask k =>
    cases r'
    case idmask k' => exact Vector.getElem_set_ne k.isLt k'.isLt fun h => hne (congrArg Reg.idmask (Fin.ext h))
    all_goals rfl
  case txdat k =>
    cases r'
    case txdat k' => exact Vector.getElem_set_ne k.isLt k'.isLt fun h => hne (congrArg Reg.txdat (Fin.ext h))
    all_goals rfl
  -- each of the others writes fields that only its own read looks at
  all_goals
    cases r'
    any_goals exact absurd rfl hne
    all_goals rfl

/-- Settles O15: both reads take the same draw, and the write leaves the value. -/
theorem writesLeaveOtherRegisters : Obligations.WritesLeaveOtherRegisters := by
  intro s t u w r r' v hne hack ht hu hw
  rw [exec_writeInstr, directWrite_eq] at ht
  rw [exec_readInstr, directRead_eq] at hu hw
  obtain rfl := Host.Outcome.next.inj ht
  obtain rfl := Host.Outcome.next.inj hu
  obtain rfl := Host.Outcome.next.inj hw
  exact congrArg Result.word (regValue_regWrite hne hack v s.params s.dev (s.fresh 0))

end Sys2Proof.Machine
end

