-- ==== Sys2Proof/Proofs/BusEngine.lean ====
section
/-! PROOF. The reset pulse and the bus engine's spontaneous steps (spec/40_register_ops.md R170, spec/46_bus_engine.md R260 to
R268). -/

namespace Sys2Proof.Machine

/-! ### The reset pulse -/

/-- Settles O16: the pulse is one device step, and every register of `pulseDevice` is a reset value or a draw. -/
theorem resetPulseLeavesItsValues : Obligations.ResetPulseLeavesItsValues := by
  intro s
  refine ⟨resetPulse s, rfl, ⟨rfl, rfl, rfl, rfl, rfl, rfl, rfl, rfl, rfl, rfl, rfl⟩, rfl, rfl, rfl, rfl, rfl, rfl, rfl, rfl,
    fun k => ⟨?_, ?_⟩, rfl, rfl, rfl, rfl, fun i => ?_, rfl⟩
  · exact Vector.getElem_ofFn k.isLt
  · exact Vector.getElem_ofFn k.isLt
  · exact Vector.getElem_ofFn i.isLt

/-! ### When a bus-engine event is taken -/

/-- A bus-engine event as an instruction is the spontaneous step (30 R94). -/
theorem exec_busInstr (e : BusEvent) (s : State) : exec (busInstr e) s = .next (busStep s e) := by
  cases e <;> rfl

/-- One that is enabled takes its step. -/
theorem exec_busInstr_of_enabled {s : State} {e : BusEvent} (h : busEnabled s.dev e = true) :
    exec (busInstr e) s = .next { s.takePicks (picksNeeded s.dev e) with
      dev := busDevice s.params s.nextPick s.dev e, trace := s.trace ++ busTrace s.nextPick s.dev e } := by
  rw [exec_busInstr, busStep_of_enabled h]

/-- One that is not enabled changes nothing (log 13). -/
theorem exec_busInstr_of_disabled {s : State} {e : BusEvent} (h : busEnabled s.dev e = false) :
    exec (busInstr e) s = .next s := by
  rw [exec_busInstr, busStep_of_disabled h]

/-! ### Arrivals -/

/-- Some filter pair is accept-all exactly when one of the six masks is (46 R260). -/
theorem Device.filterOpen_iff (d : Device) :
    d.filterOpen = true ↔ ∃ k : Fin 6, d.idmask[k] &&& 0x1FFFFFFF#32 = 0x1FFFFFFF#32 := by
  simp only [Device.filterOpen, List.any_eq_true, Vector.mem_toList_iff, Vector.mem_iff_getElem, beq_iff_eq]
  constructor
  · rintro ⟨_, ⟨k, hk, rfl⟩, h⟩
    exact ⟨⟨k, hk⟩, h⟩
  · rintro ⟨k, h⟩
    exact ⟨_, ⟨k.val, k.isLt, rfl⟩, h⟩

/-- A frame that passes a filter is queued while there is room (46 R260). -/
theorem rxArrive_of_room {p : Params} {d : Device} {accept : Bool} (hf : d.filterOpen = true ∨ accept = true)
    (hr : d.rxfifo.length < p.rxFifoDepth) (w : Vector Word 19) :
    rxArrive p w accept d = { d with rxfifo := d.rxfifo ++ [w.toList] }.raiseInt p.intRxFinish := by
  rw [rxArrive, if_neg (by rcases hf with h | h <;> simp [h]), if_pos hr]

/-- And dropped with RX_BUF_OV in a full FIFO (46 R260). -/
theorem rxArrive_of_full {p : Params} {d : Device} {accept : Bool} (hf : d.filterOpen = true ∨ accept = true)
    (hr : ¬d.rxfifo.length < p.rxFifoDepth) (w : Vector Word 19) :
    rxArrive p w accept d = d.raiseInt p.intRxBufOv := by
  rw [rxArrive, if_neg (by rcases hf with h | h <;> simp [h]), if_neg hr]

/-- One that passes none is dropped without a flag (46 R260). -/
theorem rxArrive_of_filtered {p : Params} {d : Device} {accept : Bool} (hf : ¬(d.filterOpen = true ∨ accept = true))
    (w : Vector Word 19) : rxArrive p w accept d = d := by
  rw [rxArrive, if_pos (by simpa using hf)]

/-- An arrival changes the FIFO and the flags, nothing else (46 R260). -/
theorem rxArrive_eq (p : Params) (w : Vector Word 19) (accept : Bool) (d : Device) :
    rxArrive p w accept d =
      { d with rxfifo := (rxArrive p w accept d).rxfifo, int := (rxArrive p w accept d).int } := by
  rcases rxArrive_cases p w accept d with h | ⟨-, h⟩ | h <;> rw [h] <;> rfl

/-- Settles O17, by the three branches of R260. -/
theorem rxArriveQueuesOrOverruns : Obligations.RxArriveQueuesOrOverruns := by
  intro s w accept _
  refine ⟨fun hw he => ⟨_, exec_busInstr_of_enabled (e := .rxArrive w accept) (by simp [busEnabled, hw, he]), rfl,
    rxArrive_eq s.params w accept s.dev, ?_⟩, fun h => exec_busInstr_of_disabled (e := .rxArrive w accept) ?_⟩
  · simp only [busDevice, ← Device.filterOpen_iff]
    by_cases hf : s.dev.filterOpen = true ∨ accept = true
    · rw [if_pos hf]
      by_cases hr : s.dev.rxfifo.length < s.params.rxFifoDepth
      · rw [if_pos hr, rxArrive_of_room hf hr]
        exact ⟨rfl, fun n hn => Device.raiseInt_intFlag _ _ n hn⟩
      · rw [if_neg hr, rxArrive_of_full hf hr]
        exact ⟨rfl, fun n hn => Device.raiseInt_intFlag _ _ n hn⟩
    · rw [if_neg hf, rxArrive_of_filtered hf]
  · rcases h with h | h <;> simp [busEnabled, h]

/-! ### Flags and errors -/

/-- Settles O18: both events raise their flag and write nothing else. -/
theorem flagEventsRaiseTheirFlag : Obligations.FlagEventsRaiseTheirFlag := by
  intro s n _
  refine ⟨fun hw hf => ⟨_, exec_busInstr_of_enabled (e := .rxReassert) ?_, ?_, fun m hm => Device.raiseInt_intFlag _ _ m hm⟩,
    fun hw => ⟨_, exec_busInstr_of_enabled (e := .otherFlag n) hw, ?_, fun m hm => Device.raiseInt_intFlag _ _ m hm⟩,
    fun h => exec_busInstr_of_disabled (e := .rxReassert) ?_, fun hw => exec_busInstr_of_disabled (e := .otherFlag n) hw⟩
  · simp [busEnabled, hw, hf]
  · simp [picksNeeded, busTrace, busDevice, rxReassert, Device.raiseInt]
  · simp [picksNeeded, busTrace, busDevice, otherFlag, Device.raiseInt]
  · rcases h with h | h <;> simp [busEnabled, h]

/-- A slot is queued exactly when it holds a capture that is not yet sent (10 R41). -/
theorem SlotState.isQueued_iff (x : SlotState) : x.isQueued = true ↔ ∃ snap older, x = .queued snap older := by
  cases x <;> simp [SlotState.isQueued]

theorem SlotState.isQueued_eq_false_iff (x : SlotState) : x.isQueued = false ↔ ∀ snap older, x ≠ .queued snap older := by
  cases x <;> simp [SlotState.isQueued]

/-- An arbitration loss needs a queued slot, whichever (46 R265). -/
theorem busEnabled_arbLost_iff (d : Device) (c : Word) :
    busEnabled d (.arbLost c) = true ↔ d.mode.work = true ∧ ∃ x snap older, d.slot x = .queued snap older := by
  have hslots : (d.slot0.isQueued = true ∨ d.slot1.isQueued = true) ↔ ∃ x, (d.slot x).isQueued = true :=
    ⟨fun h => h.elim (fun h => ⟨.slot0, h⟩) fun h => ⟨.slot1, h⟩, fun ⟨x, h⟩ => by cases x <;> simp_all [Device.slot]⟩
  simp only [busEnabled, Bool.and_eq_true, Bool.or_eq_true, hslots]
  simp only [SlotState.isQueued_iff]

/-- Raising a flag if chosen (46 R266). -/
theorem Device.raiseIntIf_intFlag (b : Bool) (n : Nat) (d : Device) (m : Nat) (hm : m < 15) :
    (d.raiseIntIf b n).intFlag m = (d.intFlag m || b && m == n) := by
  cases b
  · simp [Device.raiseIntIf]
  · simpa [Device.raiseIntIf] using Device.raiseInt_intFlag n d m hm

theorem Device.raiseIntIf_eq (b : Bool) (n : Nat) (d : Device) : d.raiseIntIf b n = { d with int := (d.raiseIntIf b n).int } := by
  cases b <;> rfl

/-- err_state stores what it carries and writes of the rest only flags (46 R266). -/
theorem errState_eq (p : Params) (rxc txc : Word) (warn busoff rw rp : Bool) (d : Device) :
    errState p rxc txc warn busoff rw rp d = { d with
      rxerrcnt := rxc, txerrcnt := txc, errwarn := warn, busoff := busoff,
      int := (errState p rxc txc warn busoff rw rp d).int } := by
  rw [errState, Device.raiseIntIf_eq, Device.raiseIntIf_eq]

/-- Settles O20: each event stores its operands and raises its flags; what disables it is WORK, and for an arbitration loss
that no slot is queued. -/
theorem errorEventsRecordWhatTheyCarry : Obligations.ErrorEventsRecordWhatTheyCarry := by
  intro s v rxc txc warn busoff rw' rp _
  refine ⟨fun hw => ⟨_, exec_busInstr_of_enabled (e := .busError v) hw, ?_, fun n hn => Device.raiseInt_intFlag _ _ n hn⟩,
    fun hw hq => ⟨_, exec_busInstr_of_enabled (e := .arbLost v) ((busEnabled_arbLost_iff _ _).mpr ⟨hw, hq⟩), ?_,
      fun n hn => Device.raiseInt_intFlag _ _ n hn⟩,
    fun hw => ⟨_, exec_busInstr_of_enabled (e := .errState rxc txc warn busoff rw' rp) hw, ?_, fun n hn => ?_⟩,
    fun hw => ⟨exec_busInstr_of_disabled (e := .busError v) hw,
      exec_busInstr_of_disabled (e := .errState rxc txc warn busoff rw' rp) hw⟩,
    fun h => exec_busInstr_of_disabled (e := .arbLost v) (Bool.eq_false_iff.mpr fun he => ?_)⟩
  · simp [picksNeeded, busTrace, busDevice, busError, Device.raiseInt]
  · simp [picksNeeded, busTrace, busDevice, arbLost, Device.raiseInt]
  · simp only [picksNeeded, busTrace, busDevice, List.append_nil, State.takePicks_zero]
    exact congrArg (fun d => { s with dev := d }) (errState_eq ..)
  · simp only [busDevice, errState, Device.raiseIntIf_intFlag _ _ _ n hn]
    rfl
  · obtain ⟨hw, x, snap, older, hq⟩ := (busEnabled_arbLost_iff _ _).mp he
    rcases h with h | h
    · rw [h] at hw; cases hw
    · exact h x snap older hq

/-! ### The transmit slots -/

@[simp] theorem Device.slot_setSlot_same (x : SlotId) (v : SlotState) (d : Device) : (d.setSlot x v).slot x = v := by
  cases x <;> rfl

theorem Device.slot_setSlot_ne {x y : SlotId} (h : y ≠ x) (v : SlotState) (d : Device) :
    (d.setSlot x v).slot y = d.slot y := by
  cases x <;> cases y
  case slot0.slot1 | slot1.slot0 => rfl
  all_goals exact absurd rfl h

@[simp] theorem Device.raiseInt_slot (n : Nat) (d : Device) (x : SlotId) : (d.raiseInt n).slot x = d.slot x := by
  cases x <;> rfl

@[simp] theorem Device.setSlot_intFlag (x : SlotId) (v : SlotState) (d : Device) (n : Nat) :
    (d.setSlot x v).intFlag n = d.intFlag n := by
  cases x <;> rfl

/-- Replacing a slot changes the slots alone. -/
theorem Device.setSlot_eq (x : SlotId) (v : SlotState) (d : Device) :
    d.setSlot x v = { d with slot0 := (d.setSlot x v).slot0, slot1 := (d.setSlot x v).slot1 } := by
  cases x <;> rfl

/-- What a queued slot sends by the choice `c`, as the device after it (46 R262). -/
def sentDevice (p : Params) (x : SlotId) (c : TxPick) (snap : Snapshot) (older : List Snapshot) (d : Device) : Device :=
  (d.setSlot x (sendPick c snap older).2).raiseInt p.intTxFinish

@[simp] theorem sentDevice_slot_same (p : Params) (x : SlotId) (c : TxPick) (snap : Snapshot) (older : List Snapshot)
    (d : Device) : (sentDevice p x c snap older d).slot x = (sendPick c snap older).2 := by
  simp [sentDevice]

theorem sentDevice_eq (p : Params) (x : SlotId) (c : TxPick) (snap : Snapshot) (older : List Snapshot) (d : Device) :
    sentDevice p x c snap older d = { d with
      slot0 := (sentDevice p x c snap older d).slot0, slot1 := (sentDevice p x c snap older d).slot1,
      int := (sentDevice p x c snap older d).int } := by
  rw [sentDevice, Device.setSlot_eq]
  rfl

/-- In work mode a queued slot sends the snapshot the bus engine's next choice picks (46 R262). -/
theorem exec_evTxComplete {s : State} {x : SlotId} {snap : Snapshot} {older : List Snapshot} (hw : s.dev.mode.work = true)
    (hq : s.dev.slot x = .queued snap older) :
    exec (.evTxComplete x) s = .next { s.takePicks (picksNeeded s.dev (.txComplete x)) with
      dev := sentDevice s.params x s.nextPick snap older s.dev
      trace := s.trace ++ [.busTx x (sendPick s.nextPick snap older).1] } := by
  have hen : busEnabled s.dev (.txComplete x) = true := by simp [busEnabled, hw, hq, SlotState.isQueued]
  rw [show Instr.evTxComplete x = busInstr (.txComplete x) from rfl, exec_busInstr_of_enabled hen]
  simp only [busDevice, txComplete, busTrace, hq, sentDevice]

/-- A choice that State lists first is the next one (log 26). -/
theorem nextPick_cons (s : State) (c : TxPick) (cs : List TxPick) (n : Nat) :
    ({ s with picks := ⟨c :: cs, n⟩ } : State).nextPick = c := rfl

/-- Settles O19. What a slot sends is `sendPick` of the bus engine's choice, which names one pending snapshot, and every
choice can be listed in State. -/
theorem slotEventsSendOrWithdraw : Obligations.SlotEventsSendOrWithdraw := by
  intro s x _
  refine ⟨fun snap older hw hq => ⟨?_, fun y hy => ⟨?_, fun hne => ?_⟩⟩, fun h => ?_, fun snap older hq hr => ?_, fun h => ?_⟩
  · obtain ⟨hmem, hleft⟩ := sendPick_spec s.nextPick snap older
    refine ⟨_, exec_evTxComplete hw hq, _, hmem, rfl, sentDevice_eq .., ?_, fun z hz => ?_, fun n hn => ?_, ?_⟩
    · simpa using hleft
    · simp [sentDevice, Device.slot_setSlot_ne hz]
    · simp [sentDevice, Device.raiseInt_intFlag _ _ n hn]
    · rintro rfl
      simp [picksNeeded, hq]
  · obtain ⟨c, hc⟩ := sendPick_sent hy
    refine ⟨⟨[c], 0⟩, _, exec_evTxComplete (s := { s with picks := ⟨[c], 0⟩ }) hw hq, ?_⟩
    simp [nextPick_cons, hc]
  · obtain ⟨c, z, rest, hc⟩ := sendPick_queued hy hne
    refine ⟨⟨[c], 0⟩, _, exec_evTxComplete (s := { s with picks := ⟨[c], 0⟩ }) hw hq, ?_⟩
    simp [nextPick_cons, hc]
  · rw [← SlotState.isQueued_eq_false_iff] at h
    exact exec_busInstr_of_disabled (e := .txComplete x) (by rcases h with h | h <;> simp [busEnabled, h])
  · refine ⟨_, exec_busInstr_of_enabled (e := .txWithdraw x) (by simp [busEnabled, hq, hr, SlotState.isQueued]), ?_, ?_,
      fun y hy => Device.slot_setSlot_ne hy _ _⟩
    · simp only [picksNeeded, busTrace, busDevice, List.append_nil, State.takePicks_zero]
      exact congrArg (fun d => { s with dev := d }) (Device.setSlot_eq x .idle s.dev)
    · exact Device.slot_setSlot_same x .idle s.dev
  · rw [← SlotState.isQueued_eq_false_iff] at h
    exact exec_busInstr_of_disabled (e := .txWithdraw x) (by rcases h with h | h <;> simp [busEnabled, h])

/-! ### What the bus engine leaves alone -/

theorem busStep_sameCoreOwned (s : State) (e : BusEvent) : s.dev.SameCoreOwned (busStep s e).dev := by
  simp [Device.SameCoreOwned, Device.SameSettings, Device.SameStaging, Device.SameRequests]

/-- In reset mode only a withdrawal can be taken (46 R268). -/
theorem busEnabled_of_reset_mode {d : Device} {e : BusEvent} (hw : d.mode.work = false) (he : ∀ x, e ≠ .txWithdraw x) :
    busEnabled d e = false := by
  cases e with
  | txWithdraw x => exact absurd rfl (he x)
  | _ => simp [busEnabled, hw]

/-- Whether a step is taken depends on WORK, RXFIFO_EN, the FIFO, the slots and the request bits alone (46 R260 to R268). -/
theorem busEnabled_congr {d d' : Device} (h : d.SameEnabling d') (e : BusEvent) : busEnabled d' e = busEnabled d e := by
  obtain ⟨hw, hen, hfifo, h0, h1, hr0, hr1⟩ := h
  have hslot : ∀ x, d'.slot x = d.slot x := fun x => by cases x <;> assumption
  have hreq : ∀ x, d'.req x = d.req x := fun x => by cases x <;> assumption
  cases e <;> simp [busEnabled, hw, hen, hfifo, h0, h1, hslot, hreq]

/-- Settles O21: every such instruction is a bus-engine step, whose frame is `busStep_eq` and which in reset mode is not
taken unless it withdraws. -/
theorem busEngineWritesOnlyItsRegisters : Obligations.BusEngineWritesOnlyItsRegisters := by
  refine ⟨fun s t i hi h => ?_, fun s b => ?_, fun d d' b h => busEnabled_congr h b⟩
  · obtain ⟨e, rfl⟩ : ∃ e, i = busInstr e := by
      rcases hi with rfl | ⟨w, a, rfl⟩ | ⟨x, rfl⟩ | ⟨x, rfl⟩ | ⟨v, rfl⟩ | ⟨c, rfl⟩ | ⟨a, b, c, d, f, g, rfl⟩ | ⟨n, rfl⟩
      exacts [⟨.rxReassert, rfl⟩, ⟨.rxArrive w a, rfl⟩, ⟨.txComplete x, rfl⟩, ⟨.txWithdraw x, rfl⟩, ⟨.busError v, rfl⟩,
        ⟨.arbLost c, rfl⟩, ⟨.errState a b c d f g, rfl⟩, ⟨.otherFlag n, rfl⟩]
    obtain rfl := Host.Outcome.next.inj ((exec_busInstr e s).symm.trans h)
    refine ⟨busStep_sameCoreOwned s e, busStep_eq s e, fun hw he => busStep_of_disabled ?_⟩
    exact busEnabled_of_reset_mode hw fun x hx => he x (by rw [hx]; rfl)
  · cases h : busEnabled s.dev b
    · exact exec_busInstr_of_disabled h
    · exact exec_busInstr_of_enabled h

end Sys2Proof.Machine
end

