-- ==== Sys2Proof/Proofs/Timing.lean ====
section
/-! PROOF. The bit-timing encoder and its decoders (spec/41_bit_timing.md R180 to R187). -/

namespace Sys2Proof.Machine

/-! ### Valid records -/

/-- The checks of a timing record, as bounds (41 R180, R181). -/
theorem validTiming_iff (sjwMax tseg1Max tseg2Max : Nat) (t : BitTiming) :
    validTiming sjwMax tseg1Max tseg2Max t = true ↔
      t.prescaler % 2 = 0 ∧ 2 ≤ t.prescaler ∧ t.prescaler ≤ 512 ∧ 1 ≤ t.syncJumpWidth ∧ t.syncJumpWidth ≤ sjwMax
        ∧ 1 ≤ t.propSeg + t.phaseSeg1 ∧ t.propSeg + t.phaseSeg1 ≤ tseg1Max ∧ 1 ≤ t.phaseSeg2
        ∧ t.phaseSeg2 ≤ tseg2Max := by
  simp only [validTiming, Bool.and_eq_true, beq_iff_eq, decide_eq_true_eq, and_assoc]
  rfl

/-- Settles O23: both are the shared checks at their own bounds. -/
theorem timingValidityIsTheBounds : Obligations.TimingValidityIsTheBounds := fun t =>
  ⟨validTiming_iff 128 128 128 t, validTiming_iff 16 32 16 t⟩

/-! ### The nominal word -/

/-- A natural placed in the word keeps its value where it fits (00 R10). -/
theorem natAt_toNat {n sh w : Nat} (hn : n < 2 ^ w) (hs : sh + w ≤ 32) : (natAt n sh).toNat = n * 2 ^ sh := by
  have hlt : n * 2 ^ sh < 2 ^ 32 :=
    calc n * 2 ^ sh < 2 ^ w * 2 ^ sh := Nat.mul_lt_mul_of_pos_right hn (Nat.two_pow_pos sh)
      _ = 2 ^ (sh + w) := by rw [← Nat.pow_add, Nat.add_comm]
      _ ≤ 2 ^ 32 := Nat.pow_le_pow_right (by omega) hs
  have hn32 : n < 2 ^ 32 := hn.trans_le (Nat.pow_le_pow_right (by omega) (by omega))
  rw [natAt, BitVec.toNat_shiftLeft, BitVec.toNat_ofNat, Nat.mod_eq_of_lt hn32, Nat.shiftLeft_eq, Nat.mod_eq_of_lt hlt]

/-- Fields that do not overlap add up: each stands above all the lower ones. -/
theorem or_fields_eq_sum {a b c e m : Nat} (ha : a < 2 ^ 8) (hb : b < 2 ^ 7) (hc : c < 2 ^ 8) (he : e < 2 ^ 8) :
    a * 2 ^ 16 ||| b * 2 ^ 24 ||| c ||| e * 2 ^ 8 ||| m * 2 ^ 31
      = a * 2 ^ 16 + b * 2 ^ 24 + c + e * 2 ^ 8 + m * 2 ^ 31 := by
  have reorder : a * 2 ^ 16 ||| b * 2 ^ 24 ||| c ||| e * 2 ^ 8 ||| m * 2 ^ 31
      = 2 ^ 31 * m ||| (2 ^ 24 * b ||| (2 ^ 16 * a ||| (2 ^ 8 * e ||| c))) := by
    simp only [Nat.mul_comm]
    ac_rfl
  have h8 : 2 ^ 8 * e ||| c = 2 ^ 8 * e + c := (Nat.two_pow_add_eq_or_of_lt hc e).symm
  have h16 : 2 ^ 16 * a ||| (2 ^ 8 * e + c) = 2 ^ 16 * a + (2 ^ 8 * e + c) :=
    (Nat.two_pow_add_eq_or_of_lt (by omega) a).symm
  have h24 : 2 ^ 24 * b ||| (2 ^ 16 * a + (2 ^ 8 * e + c)) = 2 ^ 24 * b + (2 ^ 16 * a + (2 ^ 8 * e + c)) :=
    (Nat.two_pow_add_eq_or_of_lt (by omega) b).symm
  have h31 : 2 ^ 31 * m ||| (2 ^ 24 * b + (2 ^ 16 * a + (2 ^ 8 * e + c)))
      = 2 ^ 31 * m + (2 ^ 24 * b + (2 ^ 16 * a + (2 ^ 8 * e + c))) := (Nat.two_pow_add_eq_or_of_lt (by omega) m).symm
  rw [reorder, h8, h16, h24, h31]
  omega

/-- The nominal word of a valid record is the sum of its fields (41 R182). -/
theorem encodeNominal_toNat {p : Params} (hp : p.Admissible) {t : BitTiming} (ht : validNominal t = true) :
    (encodeNominal p t).toNat = (t.prescaler / 2 - 1) * 2 ^ 16 + (t.syncJumpWidth - 1) * 2 ^ 24
      + (t.propSeg + t.phaseSeg1 - 1) + (t.phaseSeg2 - 1) * 2 ^ 8 + t.threeSamples.toNat * 2 ^ 31 := by
  obtain ⟨-, -, hbrp, -, hsjw, -, hts1, -, hts2⟩ := (validTiming_iff 128 128 128 t).mp ht
  have hsam : bitIf t.threeSamples p.nbtpSam = natAt t.threeSamples.toNat 31 := by
    rw [hp.parts.2.2.2.2.2.2.1]; cases t.threeSamples <;> rfl
  have hts1' : tseg1 t - 1 = t.propSeg + t.phaseSeg1 - 1 := rfl
  rw [encodeNominal, hsam, hts1', BitVec.toNat_or, BitVec.toNat_or, BitVec.toNat_or, BitVec.toNat_or,
    natAt_toNat (w := 8) (by omega) (by omega), natAt_toNat (w := 7) (by omega) (by omega),
    natAt_toNat (w := 8) (by omega) (by omega), natAt_toNat (w := 8) (by omega) (by omega),
    natAt_toNat (w := 1) t.threeSamples.toNat_lt (by omega), Nat.pow_zero, Nat.mul_one]
  exact or_fields_eq_sum (by omega) (by omega) (by omega) (by omega)

/-- Settles O25. -/
theorem encodeNominalIsTheSumOfItsFields : Obligations.EncodeNominalIsTheSumOfItsFields := by
  intro p t hp ht
  rw [encodeNominal_toNat hp ht]
  cases t.threeSamples <;> rfl

/-! ### Decoding back -/

/-- A field of a word is a digit of its value (41 R187). -/
theorem field_eq_div (r : Word) (sh w : Nat) : field r sh w = r.toNat / 2 ^ sh % 2 ^ w := by
  rw [field, BitVec.toNat_ushiftRight, Nat.shiftRight_eq_div_pow]

/-- The nominal word decodes to the record's values: its fields are the digits of the sum (41 R186). -/
theorem decodeNominal_encodeNominal {p : Params} (hp : p.Admissible) {t : BitTiming} (ht : validNominal t = true) :
    decodeNominal p (encodeNominal p t)
      = ⟨t.prescaler, t.syncJumpWidth, t.propSeg + t.phaseSeg1, t.phaseSeg2, t.threeSamples⟩ := by
  have hsum := encodeNominal_toNat hp ht
  obtain ⟨heven, hbrp', hbrp, hsjw', hsjw, hts1', hts1, hts2', hts2⟩ := (validTiming_iff 128 128 128 t).mp ht
  have hone := t.threeSamples.toNat_lt
  simp only [decodeNominal, field_eq_div, hsum, DecodedTiming.mk.injEq]
  refine ⟨by omega, by omega, by omega, by omega, ?_⟩
  rw [hp.parts.2.2.2.2.2.2.1, ← BitVec.testBit_toNat, hsum, Nat.testBit_eq_decide_div_mod_eq]
  cases h : t.threeSamples <;> simp [h] at hone ⊢ <;> omega

/-- A placed natural has its bits at its own positions. -/
theorem natAt_getLsbD_inside {n sh w k : Nat} (hn : n < 2 ^ w) (hs : sh + w ≤ 32) (hk : k < w) :
    (natAt n sh).getLsbD (sh + k) = n.testBit k := by
  rw [natAt_getLsbD hn hs]
  simp [hk]

/-- And none at the positions of a field that shares no bit with its own. -/
theorem natAt_getLsbD_outside {n sh w lo v k : Nat} (hn : n < 2 ^ w) (hs : sh + w ≤ 32) (hk : k < v)
    (h : sh + w ≤ lo ∨ lo + v ≤ sh) : (natAt n sh).getLsbD (lo + k) = false := by
  have hout : ¬(sh ≤ lo + k ∧ lo + k < sh + w) := by omega
  rw [natAt_getLsbD hn hs, ← Bool.decide_and, decide_eq_false hout, Bool.false_and]

/-- A single bit has none there either. -/
theorem bitIf_getLsbD_outside {b : Bool} {n lo v k : Nat} (hk : k < v) (h : lo + v ≤ n ∨ n < lo) :
    (bitIf b n).getLsbD (lo + k) = false := by
  rw [bitIf_getLsbD, beq_false_of_ne (by omega), Bool.and_false]

/-- The data word decodes to the record's values: its fields share no bit, so each reads back alone (41 R187). -/
theorem decodeData_encodeData {p : Params} (hp : p.Admissible) {t : BitTiming} (ht : validData t = true) :
    decodeData p (encodeData p t)
      = ⟨t.prescaler, t.syncJumpWidth, t.propSeg + t.phaseSeg1, t.phaseSeg2, t.threeSamples⟩ := by
  obtain ⟨heven, hbrp', hbrp, hsjw', hsjw, hts1', hts1, hts2', hts2⟩ := (validTiming_iff 16 32 16 t).mp ht
  obtain ⟨⟨s1, s2, sb, sj, sm⟩, d12, d1b, d1j, d1m, d2b, d2j, d2m, dbj, dbm, djm⟩ := hp.dbtp
  have nb : t.prescaler / 2 - 1 < 2 ^ 8 := by omega
  have nj : t.syncJumpWidth - 1 < 2 ^ 4 := by omega
  have n1 : tseg1 t - 1 < 2 ^ 5 := by unfold tseg1; omega
  have n2 : t.phaseSeg2 - 1 < 2 ^ 4 := by omega
  have fb : field (encodeData p t) p.dbtpBrpSh 8 = t.prescaler / 2 - 1 := field_eq nb fun k hk => by
    simp only [encodeData, BitVec.getLsbD_or, natAt_getLsbD_inside nb sb hk, natAt_getLsbD_outside nj sj hk dbj.symm,
      natAt_getLsbD_outside n1 s1 hk d1b, natAt_getLsbD_outside n2 s2 hk d2b, bitIf_getLsbD_outside hk dbm, Bool.or_false]
  have fj : field (encodeData p t) p.dbtpSjwSh 4 = t.syncJumpWidth - 1 := field_eq nj fun k hk => by
    simp only [encodeData, BitVec.getLsbD_or, natAt_getLsbD_inside nj sj hk, natAt_getLsbD_outside nb sb hk dbj,
      natAt_getLsbD_outside n1 s1 hk d1j, natAt_getLsbD_outside n2 s2 hk d2j, bitIf_getLsbD_outside hk djm, Bool.or_false,
      Bool.false_or]
  have f1 : field (encodeData p t) p.dbtpTseg1Sh 5 = tseg1 t - 1 := field_eq n1 fun k hk => by
    simp only [encodeData, BitVec.getLsbD_or, natAt_getLsbD_inside n1 s1 hk, natAt_getLsbD_outside nb sb hk d1b.symm,
      natAt_getLsbD_outside nj sj hk d1j.symm, natAt_getLsbD_outside n2 s2 hk d12.symm, bitIf_getLsbD_outside hk d1m,
      Bool.or_false, Bool.false_or]
  have f2 : field (encodeData p t) p.dbtpTseg2Sh 4 = t.phaseSeg2 - 1 := field_eq n2 fun k hk => by
    simp only [encodeData, BitVec.getLsbD_or, natAt_getLsbD_inside n2 s2 hk, natAt_getLsbD_outside nb sb hk d2b.symm,
      natAt_getLsbD_outside nj sj hk d2j.symm, natAt_getLsbD_outside n1 s1 hk d12, bitIf_getLsbD_outside hk d2m,
      Bool.or_false, Bool.false_or]
  have fm : (encodeData p t).getLsbD p.dbtpSam = t.threeSamples := by
    have out := fun {n sh w : Nat} (hn : n < 2 ^ w) (hs : sh + w ≤ 32) (h : sh + w ≤ p.dbtpSam ∨ p.dbtpSam < sh) =>
      natAt_getLsbD_outside (k := 0) (v := 1) hn hs Nat.one_pos (lo := p.dbtpSam) h
    simp only [Nat.add_zero] at out
    simp only [encodeData, BitVec.getLsbD_or, out nb sb dbm, out nj sj djm, out n1 s1 d1m, out n2 s2 d2m, bitIf_getLsbD,
      Bool.false_or]
    simp [sm]
  have hts : tseg1 t = t.propSeg + t.phaseSeg1 := rfl
  simp only [decodeData, fb, fj, f1, f2, fm, DecodedTiming.mk.injEq, and_true]
  omega

/-- On a live handle an encoder answers its value or refuses, by its check (41 R182, R183). -/
theorem withHandle_encodeWith {s : State} (hs : s.attached = .live) (valid : Bool) (v : State → Word) :
    withHandle (fun s => encodeWith valid (v s) s) s =
      .next (if valid then { s with core := .idle, result := .encoded (v s) }
        else { s with
          core := .idle, refused := true, handle := { s.handle with refused := true }, result := .refuse .invalidTiming }) := by
  rw [withHandle_live hs]
  cases valid
  · exact congrArg _ (refuse_live _ hs)
  · rfl

/-- Settles O24: each encoder's check picks the branch, and the words decode back. -/
theorem encodedTimingsDecodeBack : Obligations.EncodedTimingsDecodeBack := by
  intro s t hp hs
  have hn : exec (.opEncodeNominal t) s = _ := withHandle_encodeWith hs (validNominal t) fun s => encodeNominal s.params t
  have hd : exec (.opEncodeData t) s = _ := withHandle_encodeWith hs (validData t) fun s => encodeData s.params t
  rw [hn, hd]
  exact ⟨fun hv => ⟨_, by rw [if_pos hv], decodeNominal_encodeNominal hp hv⟩,
    fun hv => ⟨_, by rw [if_pos hv], decodeData_encodeData hp hv⟩, fun hv => by rw [if_neg (by simp [hv])],
    fun hv => by rw [if_neg (by simp [hv])]⟩

end Sys2Proof.Machine
end

