-- ==== Sys2Proof/Proofs/ModeChanges.lean ====
section
/-! PROOF. What the core alone writes, whatever the bus engine does meanwhile (spec/20_memory.md R80, R82, spec/46_bus_engine.md
R268). -/

namespace Sys2Proof.Machine

/-! ### Operations on a live handle run (42 R199) -/

section
variable {s : State} (hs : s.attached = .live)
include hs

theorem exec_opStart : exec .opStart s = .next (opStart s) := withHandle_live hs
theorem exec_opStop : exec .opStop s = .next (opStop s) := withHandle_live hs
theorem exec_opTransmit (f : Frame) : exec (.opTransmit f) s = .next (opTransmit f s) := withHandle_live hs
theorem exec_opIsr : exec .opIsr s = .next (opIsr s) := withHandle_live hs
theorem exec_opGetBerrCounter : exec .opGetBerrCounter s = .next (opGetBerrCounter s) := withHandle_live hs
theorem exec_opEnterReset : exec .opEnterReset s = .next ((enterReset s).setResult .ok) :=
  withHandle_live (body := fun s => (enterReset s).setResult .ok) hs
theorem exec_opEnterNormal : exec .opEnterNormal s = .next ((enterNormal s).setResult .ok) :=
  withHandle_live (body := fun s => (enterNormal s).setResult .ok) hs
theorem exec_opReceive : exec .opReceive s = .next ((receive s).setResult .ok) :=
  withHandle_live (body := fun s => (receive s).setResult .ok) hs

end

/-! ### The registers the core owns -/

/-- The part of the device that only the core writes, the rest as at power-on (46 R268). Two devices have the same one exactly
when `SameCoreOwned` holds (`sameCoreOwned_iff`). -/
def Device.owned (d : Device) : Device := { Device.powerOn with
  mode := d.mode, intMask := d.intMask, idcode := d.idcode, idmask := d.idmask, nbtp := d.nbtp, dbtp := d.dbtp,
  tdcEn := d.tdcEn, tdco := d.tdco, rxfifoEn := d.rxfifoEn, fdtxEn := d.fdtxEn, txfic := d.txfic, txid := d.txid,
  txdat := d.txdat, req0 := d.req0, req1 := d.req1 }

theorem sameCoreOwned_iff {d d' : Device} : d.SameCoreOwned d' ↔ d'.owned = d.owned := by
  simp [Device.SameCoreOwned, Device.SameSettings, Device.SameStaging, Device.SameRequests, Device.owned, and_assoc]

/-- A write sets in the core's part what it sets in the device. -/
theorem regWrite_owned (r : Reg) (v : Word) (p : Params) (d : Device) :
    (regWrite r v p d).owned = (regWrite r v p d.owned).owned := by
  cases r
  case cmd =>
    rw [regWrite, regWrite, writeCmd_eq, writeCmd_eq]
    rfl
  all_goals rfl

@[simp] theorem regAfterRead_owned (r : Reg) (d : Device) : (regAfterRead r d).owned = d.owned := by
  cases r <;> rfl

@[simp] theorem interlude_owned (s : State) : (interlude s).dev.owned = s.dev.owned := by
  simp [Device.owned]

@[simp] theorem rd_owned (r : Reg) (s : State) : (rd r s).2.dev.owned = s.dev.owned := by simp

theorem wr_owned (r : Reg) (v : Word) (s : State) : (wr r v s).dev.owned = (regWrite r v s.params s.dev.owned).owned := by
  rw [wr_dev, regWrite_owned, interlude_owned]

@[simp] theorem emitStep_owned (e : Event) (s : State) : (emitStep e s).dev.owned = s.dev.owned := by simp

@[simp] theorem acquireStep_owned (s : State) : (acquireStep s).dev.owned = s.dev.owned := by simp

@[simp] theorem allocStep_owned (s : State) : (allocStep s).dev.owned = s.dev.owned := by simp

/-! ### The modes -/

/-- MODE with the bits of a word set (00 R12). -/
def ModeBits.set (p : Params) (m : Word) (b : ModeBits) : ModeBits where
  work := b.work || m.getLsbD p.modeWork
  loopback := b.loopback || m.getLsbD p.modeLoopback
  selftest := b.selftest || m.getLsbD p.modeSelftest
  autoretx := b.autoretx || m.getLsbD p.modeAutoretx
  fd := b.fd || m.getLsbD p.modeFd

theorem ModeBits.set_work {p : Params} (hp : p.Admissible) (b : ModeBits) :
    b.set p (bit p.modeWork) = { b with work := true } := by
  have := hp.mode
  simp only [ModeBits.set, bit_getLsbD, ModeBits.mk.injEq]
  grind

theorem ModeBits.set_fd {p : Params} (hp : p.Admissible) (b : ModeBits) : b.set p (bit p.modeFd) = { b with fd := true } := by
  have := hp.mode
  simp only [ModeBits.set, bit_getLsbD, ModeBits.mk.injEq]
  grind

theorem ModeBits.set_autoretx {p : Params} (hp : p.Admissible) (b : ModeBits) :
    b.set p (bit p.modeAutoretx) = { b with autoretx := true } := by
  have := hp.mode
  simp only [ModeBits.set, bit_getLsbD, ModeBits.mk.injEq]
  grind

theorem ModeBits.set_loopback {p : Params} (hp : p.Admissible) (b : ModeBits) :
    b.set p (bit p.modeLoopback ||| bit p.modeSelftest) = { b with loopback := true, selftest := true } := by
  have := hp.mode
  simp only [ModeBits.set, BitVec.getLsbD_or, bit_getLsbD, ModeBits.mk.injEq]
  grind

/-- Setting MODE bits changes MODE alone of what the core owns (20 R82). -/
theorem setbits_mode_owned {s : State} (hp : s.params.Admissible) (m : Word) :
    (setbits .mode m s).dev.owned = { s.dev.owned with mode := s.dev.owned.mode.set s.params m } := by
  have hmode : (setbits .mode m s).dev.mode = s.dev.owned.mode.set s.params m := setbits_mode hp m
  rw [← hmode, setbits_eq, wr_owned, rd_owned]
  simp [regWrite, writeMode]
  rfl

/-- enter_normal sets WORK (42 R191). -/
theorem enterNormal_owned {s : State} (hp : s.params.Admissible) :
    (enterNormal s).dev.owned = { s.dev.owned with mode := { s.dev.owned.mode with work := true } } := by
  rw [← ModeBits.set_work hp]
  exact setbits_mode_owned hp _

/-- enter_reset leaves the drawn registers of the pulse, and MODE 0 (42 R190). -/
theorem enterReset_owned (s : State) :
    (enterReset s).dev.owned =
      { (pulseDevice s.params s.fresh).owned with mode := ⟨false, false, false, false, false⟩ } := by
  rw [← pulseStep_dev, ← interlude_owned (pulseStep s), enterReset_dev]
  rfl

/-- enter_reset leaves both slots Idle: the pulse empties them, and the bus engine queues none (20 R82). -/
theorem enterReset_slots (s : State) : (enterReset s).dev.slot0 = .idle ∧ (enterReset s).dev.slot1 = .idle := by
  rw [enterReset_dev]
  exact interlude_slots (s := pulseStep s) (by simp [pulseDevice])

/-- The pulse's values are quiet ones (10 R54). -/
theorem pulseDevice_quiet (p : Params) (fresh : Nat → Word) : (pulseDevice p fresh).Quiet :=
  ⟨rfl, rfl, rfl, rfl, rfl, rfl, rfl, rfl, rfl, rfl, rfl⟩

/-- With no flag set the line is low (10 R28). -/
theorem Device.Quiet.irq {d : Device} (h : d.Quiet) : d.irq = false := by
  simp [Device.irq, h.1]

/-- Where the bus engine can do nothing before the MODE write, enter_reset leaves a quiet device (70 R331, log 25). -/
theorem enterReset_quiet {s : State}
    (h : s.schedule[1]?.getD [] = [] ∨ (s.fresh 0).getLsbD s.params.modeWork = false) : (enterReset s).dev.Quiet := by
  rw [enterReset_dev_quiet h]
  exact pulseDevice_quiet s.params s.fresh

/-- Settles O27, from what enter_reset leaves of the core's registers, the slots and the handle. -/
theorem enterResetLeavesResetMode : Obligations.EnterResetLeavesResetMode := by
  intro s hs
  have ho := enterReset_owned s
  obtain ⟨h0, h1⟩ := enterReset_slots s
  exact ⟨_, exec_opEnterReset hs, rfl, congrArg Device.mode ho, congrArg Device.tdcEn ho, congrArg Device.req0 ho,
    congrArg Device.req1 ho, h0, h1, congrArg Device.intMask ho, congrArg Device.nbtp ho, enterReset_handle s,
    fun h => ⟨enterReset_quiet h, (enterReset_quiet h).irq⟩⟩

/-- With nothing scheduled, setting MODE bits changes MODE alone. -/
theorem setbits_mode_of_nil {s : State} (h : s.schedule = []) (m : Word) :
    (setbits .mode m s).dev = { s.dev with mode := (setbits .mode m s).dev.mode } := by
  simp [setbits_eq, interlude_of_nil, h, regWrite, writeMode, regAfterRead]

/-- Settles O28. -/
theorem enterNormalSetsWorkOnly : Obligations.EnterNormalSetsWorkOnly := by
  intro s hp hs
  have ho := enterNormal_owned hp
  have hmode : (enterNormal s).dev.mode = { s.dev.mode with work := true } := congrArg Device.mode ho
  refine ⟨_, exec_opEnterNormal hs, rfl, hmode, sameCoreOwned_iff.mpr ?_, enterNormal_handle s,
    fun h => setbits_mode_of_nil h _⟩
  rw [State.setResult_dev, ho, hmode]
  rfl

/-! ### Start -/

/-- One filter pair is programmed (42 R192). -/
theorem programFilter_owned (s : State) (k : Fin 6) :
    (programFilter s k).dev.owned = { s.dev.owned with
      idcode := s.dev.owned.idcode.set k.val s.params.filterCode k.isLt,
      idmask := s.dev.owned.idmask.set k.val 0x1FFFFFFF#32 k.isLt } := by
  rw [programFilter, wr_owned, wr_owned]
  rfl

/-- The pairs listed are programmed alike (42 R192). -/
theorem foldl_programFilter_owned (ks : List (Fin 6)) (s : State) :
    (ks.foldl programFilter s).dev.owned = { s.dev.owned with
      idcode := ks.foldl (fun v k => v.set k.val s.params.filterCode k.isLt) s.dev.owned.idcode,
      idmask := ks.foldl (fun v k => v.set k.val 0x1FFFFFFF#32 k.isLt) s.dev.owned.idmask } := by
  induction ks generalizing s with
  | nil => rfl
  | cons k ks ih =>
    have hparams : (programFilter s k).params = s.params := by simp [programFilter]
    rw [List.foldl_cons, ih, programFilter_owned, hparams]
    rfl

/-- Setting all six entries to one word leaves no other. -/
theorem foldl_set_finRange (v : Vector Word 6) (w : Word) :
    (List.finRange 6).foldl (fun v k => v.set k.val w k.isLt) v = .replicate 6 w := by
  apply Vector.ext
  intro i hi
  simp only [List.finRange_succ, List.finRange_zero, List.map_nil, List.map_cons, List.foldl_cons, List.foldl_nil]
  interval_cases i <;> simp

/-- program_filters leaves all six pairs accept-all with the filter code (42 R192). -/
theorem programFilters_owned (s : State) :
    (programFilters s).dev.owned = { s.dev.owned with
      idcode := .replicate 6 s.params.filterCode, idmask := .replicate 6 0x1FFFFFFF#32 } := by
  rw [programFilters, foldl_programFilter_owned, foldl_set_finRange, foldl_set_finRange]

/-- The FD part sets MODE.FD and FDTX_CTRL.EN (42 R193). -/
theorem programFd_owned {s : State} (hp : s.params.Admissible) (fd : Bool) :
    (programFd fd s).dev.owned = { s.dev.owned with
      mode := { s.dev.owned.mode with fd := s.dev.owned.mode.fd || fd }, fdtxEn := s.dev.owned.fdtxEn || fd } := by
  cases fd
  · simp [programFd]
  · have hbit : (bit s.params.fdtxEn).getLsbD s.params.fdtxEn = true := by
      simp [bit_getLsbD, hp.parts.2.2.2.2.2.2.2.2.2.2.1]
    rw [programFd, if_pos rfl, setbits_mode_owned (by simpa using hp), wr_owned, wr_params, ModeBits.set_fd hp]
    simp [Device.owned, regWrite, hbit]

/-- The loopback part sets MODE.LOOPBACK and MODE.SELFTEST (42 R193). -/
theorem programLoopback_owned {s : State} (hp : s.params.Admissible) (b : Bool) :
    (programLoopback b s).dev.owned = { s.dev.owned with
      mode := { s.dev.owned.mode with
        loopback := s.dev.owned.mode.loopback || b, selftest := s.dev.owned.mode.selftest || b } } := by
  cases b
  · simp [programLoopback]
  · rw [programLoopback, if_pos rfl, setbits_mode_owned hp, ModeBits.set_loopback hp]
    simp

/-- program_features enables the FIFO and sets the MODE bits the configuration asks for, and AUTORETX (42 R193). -/
theorem programFeatures_owned {s : State} (hp : s.params.Admissible) (cfg : CanConfig) :
    (programFeatures cfg s).dev.owned = { s.dev.owned with
      mode := ⟨s.dev.owned.mode.work, s.dev.owned.mode.loopback || cfg.loopback, s.dev.owned.mode.selftest || cfg.loopback,
        true, s.dev.owned.mode.fd || cfg.fd⟩
      rxfifoEn := true, fdtxEn := s.dev.owned.fdtxEn || cfg.fd } := by
  have hbit : (bit s.params.rxfifoEn).getLsbD s.params.rxfifoEn = true := by
    simp [bit_getLsbD, hp.parts.2.2.2.2.2.2.2.2.2.1]
  rw [programFeatures, setbits_mode_owned (by simpa using hp), programLoopback_owned (by simpa using hp),
    programFd_owned (by simpa using hp), wr_owned, programLoopback_params, programFd_params, wr_params,
    ModeBits.set_autoretx hp]
  simp [Device.owned, regWrite, hbit]

/-- TDCR's word has EN set and the offset in TDCO (30 R105). -/
theorem writeTdcr_tdcrValue {p : Params} (hp : p.Admissible) (o : BitVec 8) (d : Device) :
    writeTdcr (tdcrValue p o) p d = { d with tdcEn := true, tdco := o.setWidth 6 } := by
  obtain ⟨hen, hfit, hapart⟩ := hp.tdcr
  have h1 : (tdcrValue p o).getLsbD p.tdcrEn = true := by simp [tdcrValue, bit_getLsbD, hen]
  have h2 : (tdcrValue p o).extractLsb' p.tdcrTdcoSh 6 = o.setWidth 6 := by
    apply BitVec.eq_of_getLsbD_eq
    intro k hk
    simp only [tdcrValue, BitVec.getLsbD_extractLsb', BitVec.getLsbD_or, BitVec.getLsbD_shiftLeft, BitVec.getLsbD_setWidth,
      bit_getLsbD]
    grind
  rw [writeTdcr, h1, h2]

/-- TDC programming writes TDCR only where there is an offset (41 R185). -/
theorem programTdc_owned {s : State} (hp : s.params.Admissible) (t : Option (BitVec 8)) :
    (programTdc t s).dev.owned = { s.dev.owned with
      tdcEn := s.dev.owned.tdcEn || t.isSome, tdco := t.elim s.dev.owned.tdco (·.setWidth 6) } := by
  cases t with
  | none => simp [programTdc]
  | some o =>
    rw [programTdc, wr_owned, regWrite, writeTdcr_tdcrValue hp]
    simp [Device.owned]

/-- What start's register sequence leaves of the core's registers (42 R194, 70 R332). -/
theorem startSequence_owned {s : State} (hp : s.params.Admissible) (cfg : CanConfig) :
    (startSequence cfg s).dev.owned = { (pulseDevice s.params s.fresh).owned with
      mode := startedMode cfg
      intMask := s.params.startIntMask
      idcode := .replicate 6 s.params.filterCode
      idmask := .replicate 6 0x1FFFFFFF#32
      rxfifoEn := true
      fdtxEn := (pulseDevice s.params s.fresh).fdtxEn || cfg.fd
      nbtp := encodeNominal s.params cfg.nominal
      dbtp := encodeData s.params cfg.data &&& dbtpMask s.params
      tdcEn := (computeTdc s.handle.clockHz cfg.dataBitrate).isSome
      tdco := (computeTdc s.handle.clockHz cfg.dataBitrate).elim (pulseDevice s.params s.fresh).tdco (·.setWidth 6) } := by
  rw [startSequence, enterNormal_owned (by simpa using hp), programTdc_owned (by simpa using hp), wr_owned, wr_owned,
    programFeatures_owned (by simpa using hp), programFilters_owned, wr_owned, enterReset_owned]
  simp [regWrite, startedMode, Device.owned, pulseDevice]

/-- An offset fits TDCO (41 R184). -/
theorem computeTdc_le {c b : Word} {o : BitVec 8} (h : computeTdc c b = some o) : o.toNat ≤ 63 := by
  by_cases hb : b.toNat ≤ 2200000
  · rw [computeTdc_of_le hb] at h
    cases h
  · obtain ⟨o', ho', hval⟩ := computeTdc_of_lt (Nat.lt_of_not_le hb) c
    obtain rfl : o = o' := Option.some.inj (h.symm.trans ho')
    omega

/-- TDCR is as the timing tells where EN says whether there is an offset and TDCO holds it (70 R332). -/
theorem Device.tdcAs_of {d : Device} {c b : Word} {x : BitVec 6} (hen : d.tdcEn = (computeTdc c b).isSome)
    (ho : d.tdco = (computeTdc c b).elim x (·.setWidth 6)) : d.TdcAs (computeTdc c b) := by
  refine ⟨fun h => by rw [hen, h]; rfl, fun o h => ⟨by rw [hen, h]; rfl, ?_⟩⟩
  have := computeTdc_le h
  rw [ho, h, Option.elim_some, BitVec.toNat_setWidth, Nat.mod_eq_of_lt (by omega)]

/-! ### Nothing scheduled, nothing raised -/

/-- Nothing is scheduled and nothing that the bus engine or transmit fills is set (70 R331). -/
def State.QuietRun (s : State) : Prop := s.schedule = [] ∧ s.dev.Quiet

/-- A write but of CMD leaves the device quiet. -/
theorem Device.Quiet.regWrite {d : Device} (h : d.Quiet) {r : Reg} (hr : r ≠ .cmd) (v : Word) (p : Params) :
    (regWrite r v p d).Quiet := by
  cases r
  case cmd => contradiction
  case int =>
    obtain ⟨hint, hrest⟩ := h
    simp only [Device.Quiet] at hrest ⊢
    simp [Machine.regWrite, writeInt, Device.clearInt, hint, hrest]
  all_goals exact h

theorem Device.Quiet.regAfterRead {d : Device} (h : d.Quiet) (r : Reg) : (regAfterRead r d).Quiet := by
  cases r
  case rxport j =>
    have hfifo : d.rxfifo = [] := by simp only [Device.Quiet] at h; tauto
    rwa [regAfterRead_rxport_of_nil hfifo]
  all_goals exact h

namespace State.QuietRun

variable {s : State} (h : s.QuietRun)
include h

theorem wr {r : Reg} (hr : r ≠ .cmd) (v : Word) : (wr r v s).QuietRun :=
  ⟨by simp [h.1], by rw [wr_dev, interlude_of_nil h.1]; exact h.2.regWrite hr v s.params⟩

theorem rd (r : Reg) : (rd r s).2.QuietRun :=
  ⟨by simp [h.1], by rw [rd_dev, interlude_of_nil h.1]; exact h.2.regAfterRead r⟩

theorem setbits (m : Word) : (setbits .mode m s).QuietRun := (h.rd .mode).wr (by decide) _

theorem emitStep (e : Event) : (emitStep e s).QuietRun :=
  ⟨by simp [h.1], by rw [emitStep_dev, interlude_of_nil h.1]; exact h.2⟩

theorem programFilters : (programFilters s).QuietRun :=
  programFilters_keeps (P := QuietRun) (fun _ _ h => (h.wr (by simp) _).wr (by simp) _) s h

theorem programFd (fd : Bool) : (programFd fd s).QuietRun := by
  cases fd
  · exact h
  · exact (h.wr (by decide) _).setbits _

theorem programLoopback (b : Bool) : (programLoopback b s).QuietRun := by
  cases b
  · exact h
  · exact h.setbits _

theorem programFeatures (cfg : CanConfig) : (programFeatures cfg s).QuietRun :=
  (((h.wr (by decide) _).programFd _).programLoopback _).setbits _

theorem programTdc (t : Option (BitVec 8)) : (programTdc t s).QuietRun := by
  cases t
  · exact h
  · exact h.wr (by decide) _

end State.QuietRun

/-- With nothing scheduled the reset leaves a quiet run, whatever was set before (70 R331). -/
theorem enterReset_quietRun {s : State} (h : s.schedule = []) : (enterReset s).QuietRun :=
  ⟨by simp [enterReset, h], enterReset_quiet (.inl (by simp [h]))⟩

theorem startSequence_quietRun {s : State} (h : s.schedule = []) (cfg : CanConfig) : (startSequence cfg s).QuietRun :=
  ((((((enterReset_quietRun h).wr (by decide) _).programFilters.programFeatures cfg).wr (by decide) _).wr
    (by decide) _).programTdc _).setbits _

theorem startSequence_handle (cfg : CanConfig) (s : State) :
    (startSequence cfg s).handle = { s.handle with mode := .normal } := by
  simp [startSequence, enterNormal_handle, enterReset_handle]

/-- The state start ends in, once acquire is granted (42 R194). -/
def startedState (cfg : CanConfig) (s : State) : State :=
  finish .ok (emitStep .release ((startSequence cfg (acquireStep (begin .start s))).updHandle
    fun h => { h with busState := .errorActive, outstanding := [] }))

theorem opStart_of_acquired {s : State} {cfg : CanConfig} (hc : s.handle.config = some cfg)
    (ha : nextAcquire s = true) : opStart s = startedState cfg s := by
  have ha' : nextAcquire (begin .start s) = true := ha
  simp only [opStart, hc, ha', if_true, startedState]

theorem startedState_handle (cfg : CanConfig) (s : State) : (startedState cfg s).handle =
    { s.handle with mode := .normal, busState := .errorActive, outstanding := [] } := by
  simp [startedState, finish, begin, startSequence_handle]

theorem startSequence_frame (cfg : CanConfig) (s : State) :
    (startSequence cfg s).params = s.params ∧ (startSequence cfg s).attached = s.attached
      ∧ (startSequence cfg s).fault = s.fault ∧ (startSequence cfg s).refused = s.refused := by
  simp [startSequence]

theorem startedState_frame (cfg : CanConfig) (s : State) :
    (startedState cfg s).params = s.params ∧ (startedState cfg s).attached = s.attached
      ∧ (startedState cfg s).fault = s.fault ∧ (startedState cfg s).refused = s.refused := by
  simp [startedState, finish, begin, startSequence_frame]

/-- start leaves the registers of R332 whatever the bus engine does (70 R332). -/
theorem startedState_registers {s : State} (hp : s.params.Admissible) (cfg : CanConfig) :
    (startedState cfg s).StartedRegisters cfg := by
  have ho : (startedState cfg s).dev.owned = (startSequence cfg (acquireStep (begin .start s))).dev.owned :=
    interlude_owned _
  rw [startSequence_owned (by simpa [begin] using hp)] at ho
  have hclock : (acquireStep (begin .start s)).handle.clockHz = s.handle.clockHz := by simp [begin]
  have hclock' : (startedState cfg s).handle.clockHz = s.handle.clockHz := by rw [startedState_handle]
  have hparams : (acquireStep (begin .start s)).params = s.params := by simp [begin]
  obtain ⟨hparams', -⟩ := startedState_frame cfg s
  rw [hclock, hparams] at ho
  have hfd := congrArg Device.fdtxEn ho
  have hcode : (startedState cfg s).dev.idcode = .replicate 6 s.params.filterCode := congrArg Device.idcode ho
  have hmask : (startedState cfg s).dev.idmask = .replicate 6 0x1FFFFFFF#32 := congrArg Device.idmask ho
  refine ⟨congrArg Device.mode ho, ?_, fun k => ⟨?_, ?_⟩, congrArg Device.rxfifoEn ho, fun h => ?_, ?_, ?_, ?_,
    congrArg Device.req0 ho, congrArg Device.req1 ho, ?_⟩
  · rw [hparams']; exact congrArg Device.intMask ho
  · rw [hparams', hcode]; exact Vector.getElem_replicate k.isLt
  · rw [hmask]; exact Vector.getElem_replicate k.isLt
  · exact hfd.trans (by simp [h])
  · rw [hparams']; exact congrArg Device.nbtp ho
  · rw [hparams']; exact congrArg Device.dbtp ho
  · rw [hclock']; exact Device.tdcAs_of (congrArg Device.tdcEn ho) (congrArg Device.tdco ho)
  · rw [startedState_handle]; exact ⟨rfl, rfl, rfl⟩

/-- Undisturbed, start leaves a quiet device (70 R332). -/
theorem startedState_quiet {s : State} (h : s.schedule = []) (cfg : CanConfig) : (startedState cfg s).dev.Quiet := by
  have hseq := startSequence_quietRun (s := acquireStep (begin .start s)) (by simp [begin, h]) cfg
  exact (State.QuietRun.emitStep (s := (startSequence cfg (acquireStep (begin .start s))).updHandle
    fun h => { h with busState := .errorActive, outstanding := [] }) hseq .release).2

/-- Settles O29. -/
theorem startLeavesTheStartedState : Obligations.StartLeavesTheStartedState := by
  intro s cfg hp hs hc ha
  have hreg := startedState_registers hp cfg
  have hh := startedState_handle cfg s
  obtain ⟨hparams, hatt, hfault, hrefused⟩ := startedState_frame cfg s
  refine ⟨startedState cfg s, by rw [exec_opStart hs, opStart_of_acquired hc ha], rfl, rfl, hreg, ?_, fun hv => ?_, hh,
    hparams, hatt.trans hs, hfault, hrefused, fun h => startedState_quiet h cfg, fun h hclean hv hfresh => ?_⟩
  · obtain ⟨-, -, -, -, -, -, -, htdc, -⟩ := hreg
    rwa [hh] at htdc
  · obtain ⟨-, -, -, -, -, -, hdbtp, -⟩ := hreg
    rw [hdbtp, hparams, encodeData_and_mask hp ((CanConfig.valid_eq_true_iff cfg).mp hv).2]
  · refine ⟨hatt.trans hs, rfl, hv, hreg, startedState_quiet h cfg, ⟨hfault.trans hclean.1, hrefused.trans hclean.2⟩, ?_⟩
    rw [hh, hfresh]
    rfl

/-! ### Operations turned away -/

/-- The state in which an operation ends whose acquire is answered fail (42 R194). -/
def turnedAway (op : CoreOp) (s : State) : State := finish .resourceError (acquireStep (begin op s))

/-- start, with a configuration, stop and get_berr_counter end so (42 R194, R195, R198). -/
theorem exec_of_not_acquired {s : State} {i : Instr} (hs : s.attached = .live) (ha : nextAcquire s = false)
    (hi : (i = .opStart ∧ s.handle.config ≠ none) ∨ i = .opStop ∨ i = .opGetBerrCounter) :
    ∃ op, exec i s = .next (turnedAway op s) := by
  have ha' : ∀ op, nextAcquire (begin op s) = false := fun _ => ha
  rcases hi with ⟨rfl, hc⟩ | rfl | rfl
  · obtain ⟨cfg, hc⟩ := Option.ne_none_iff_exists'.mp hc
    exact ⟨.start, by simp only [exec_opStart hs, opStart, hc, ha', Bool.false_eq_true, if_false, turnedAway]⟩
  · exact ⟨.stop, by simp only [exec_opStop hs, opStop, ha', Bool.false_eq_true, if_false, turnedAway]⟩
  · exact ⟨.getBerrCounter, by simp only [exec_opGetBerrCounter hs, opGetBerrCounter, ha', Bool.false_eq_true, if_false, turnedAway]⟩

/-- Settles O30: without a configuration start is refused at once; turned away, an operation has only drawn the answer. -/
theorem operationsTurnedAwayChangeNothing : Obligations.OperationsTurnedAwayChangeNothing := by
  intro s hs
  refine ⟨fun hc => ?_, fun ha i hi => ?_⟩
  · rw [exec_opStart hs, opStart, hc, ← refuse_live _ hs]
  · obtain ⟨op, hexec⟩ := exec_of_not_acquired hs ha hi
    refine ⟨turnedAway op s, hexec, rfl, rfl, by simp [turnedAway, finish, begin], sameCoreOwned_iff.mpr ?_, fun h => ?_⟩
    · exact acquireStep_owned (begin op s)
    · have ha' : nextAcquire (begin op s) = false := ha
      simp [turnedAway, finish, begin_eq, interlude_of_nil, h]
      exact ha'

/-! ### The error counters -/

/-- The state in which get_berr_counter ends, once acquire is granted (42 R198). -/
theorem opGetBerrCounter_of_acquired {s : State} (ha : nextAcquire s = true) :
    opGetBerrCounter s =
      let x := rd .rxerrcnt (acquireStep (begin .getBerrCounter s))
      let y := rd .txerrcnt x.2
      finish (.berr y.1 x.1) (emitStep .release y.2) := by
  have ha' : nextAcquire (begin .getBerrCounter s) = true := ha
  simp only [opGetBerrCounter, ha', if_true]

/-- Settles O33. -/
theorem getBerrCounterAnswersTheCounters : Obligations.GetBerrCounterAnswersTheCounters := by
  intro s hs ha
  have ha' : nextAcquire (begin .getBerrCounter s) = true := ha
  refine ⟨_, by rw [exec_opGetBerrCounter hs, opGetBerrCounter_of_acquired ha], rfl, by simp [finish, begin],
    sameCoreOwned_iff.mpr ?_, ⟨_, _, rfl⟩, fun h => ?_⟩
  · simp only [finish, State.setResult_dev, State.setCore_dev, emitStep_owned, rd_owned, acquireStep_owned]
    rfl
  · have hb : (begin .getBerrCounter s).schedule = [] := h
    simp [finish, rd_value, rd_trace, interlude_of_nil, hb, regValue, regAfterRead, ha']
    exact ⟨⟨rfl, rfl⟩, rfl, rfl⟩

/-! ### The handle's lifecycle -/

/-- Settles O34, by the three states of the handle. -/
theorem attachCreatesTheHandle : Obligations.AttachCreatesTheHandle := by
  intro s
  have hexec : exec .opAttach s = execOpAttach s := rfl
  refine ⟨fun h => ⟨finish .ok (createHandle s), by simp only [hexec, execOpAttach, h], rfl, rfl, rfl, rfl, rfl, rfl, rfl⟩,
    fun h => ?_, fun h => ?_⟩
  · rw [← refuse_live _ h]
    simp only [hexec, execOpAttach, h]
  · rw [← refuse_not_live _ (by rw [h]; decide)]
    simp only [hexec, execOpAttach, h]

/-- Every core operation but attach asks for a valid handle first (42 R199). -/
theorem exec_of_no_handle {s : State} (hs : s.attached ≠ .live) {i : Instr}
    (hi : i = .opStart ∨ i = .opStop ∨ i = .opIsr ∨ i = .opGetBerrCounter ∨ i = .opEnterReset ∨ i = .opEnterNormal
      ∨ i = .opReceive ∨ i = .opDetach ∨ (∃ cfg, i = .opConfigure cfg) ∨ (∃ f, i = .opTransmit f)
      ∨ (∃ b, i = .opEncodeNominal b) ∨ (∃ b, i = .opEncodeData b) ∨ ∃ c b, i = .opComputeTdc c b) :
    exec i s = .next (refuse .detached s) := by
  obtain ⟨body, hbody⟩ : ∃ body, exec i s = withHandle body s := by
    rcases hi with rfl | rfl | rfl | rfl | rfl | rfl | rfl | rfl | ⟨_, rfl⟩ | ⟨_, rfl⟩ | ⟨_, rfl⟩ | ⟨_, rfl⟩ | ⟨_, _, rfl⟩
    case inr.inr.inr.inr.inl => exact ⟨fun s => (enterReset s).setResult .ok, rfl⟩
    case inr.inr.inr.inr.inr.inl => exact ⟨fun s => (enterNormal s).setResult .ok, rfl⟩
    case inr.inr.inr.inr.inr.inr.inl => exact ⟨fun s => (receive s).setResult .ok, rfl⟩
    case inr.inr.inr.inr.inr.inr.inr.inl =>
      exact ⟨fun s => finish .ok ((s.updHandle fun _ => Handle.fresh 0).setAttached .invalid), rfl⟩
    all_goals exact ⟨_, rfl⟩
  rw [hbody, withHandle_not_live hs]

/-- Settles O36. -/
theorem noOperationWithoutAHandle : Obligations.NoOperationWithoutAHandle := by
  intro s
  refine ⟨fun hs => ⟨_, withHandle_live (body := fun s => finish .ok ((s.updHandle fun _ => Handle.fresh 0).setAttached
    .invalid)) hs, rfl, rfl, rfl, rfl⟩, fun hs i hi => ?_⟩
  rw [exec_of_no_handle hs hi, refuse_not_live _ hs]

/-! ### Stop -/

/-- The state in which stop ends, once acquire is granted (42 R195). -/
theorem opStop_of_acquired {s : State} (ha : nextAcquire s = true) :
    opStop s = finish .ok (emitStep .release ((wr .intMask 0xFFFFFFFF
      (enterReset ((acquireStep (begin .stop s)).updHandle fun h => { h with busState := .stopped }))).updHandle
        fun h => { h with outstanding := [] })) := by
  have ha' : nextAcquire (begin .stop s) = true := ha
  simp only [opStop, ha', if_true]

/-- After enter_reset the device stays as the writes that follow leave it: in reset mode with both slots Idle the bus engine
can do nothing (46 R268). -/
theorem stop_dev (s : State) :
    (emitStep .release ((wr .intMask 0xFFFFFFFF (enterReset s)).updHandle fun h => { h with outstanding := [] })).dev
      = { (enterReset s).dev with intMask := 0xFFFFFFFF } := by
  have hwr : (wr .intMask 0xFFFFFFFF (enterReset s)).dev = { (enterReset s).dev with intMask := 0xFFFFFFFF } := by
    rw [wr_dev, interlude_enterReset]
    rfl
  have hmode : (enterReset s).dev.mode.work = false := congrArg (fun d => d.mode.work) (enterReset_owned s)
  obtain ⟨h0, h1⟩ := enterReset_slots s
  rw [emitStep_dev, interlude_off (by rw [State.updHandle_dev, hwr]; exact hmode) (by rw [State.updHandle_dev, hwr]; exact h0)
    (by rw [State.updHandle_dev, hwr]; exact h1)]
  exact hwr

/-- With every flag masked the line is low (10 R28). -/
theorem Device.irq_of_all_masked {d : Device} (h : d.intMask = 0xFFFFFFFF) : d.irq = false := by
  simp [Device.irq, h]

/-- Settles O32. -/
theorem stopLeavesTheBlockSilent : Obligations.StopLeavesTheBlockSilent := by
  intro s hs ha
  have hexec := (exec_opStop hs).trans (congrArg _ (opStop_of_acquired ha))
  -- the state in which enter_reset runs: bus_state is stored, acquire is answered
  generalize hu : (acquireStep (begin .stop s)).updHandle (fun h => { h with busState := .stopped }) = u at hexec
  have hdev := stop_dev u
  have ho := enterReset_owned u
  obtain ⟨h0, h1⟩ := enterReset_slots u
  refine ⟨_, hexec, rfl, rfl, ?_⟩
  simp only [finish, State.setResult_dev, State.setCore_dev, hdev]
  refine ⟨congrArg Device.mode ho, congrArg Device.tdcEn ho, congrArg Device.req0 ho, congrArg Device.req1 ho, h0, h1, rfl,
    Device.irq_of_all_masked rfl, ?_, fun h => ?_⟩
  · simp [← hu, begin, enterReset_handle]
  · have hsched : u.schedule[1]? = s.schedule[2]? := by simp [← hu, begin]
    have hfresh : u.fresh = (s.addDraws 1).fresh := fresh_congr (by simp [← hu, begin]) (by simp [← hu, begin])
    have hparams : u.params = s.params := by simp [← hu, begin]
    exact (enterReset_quiet (by rwa [hsched, hfresh, hparams])).regWrite (r := .intMask) (by decide) 0xFFFFFFFF s.params

/-! ### The accesses of start -/

theorem accessesOf_append (es fs : List Event) : accessesOf (es ++ fs) = accessesOf es ++ accessesOf fs :=
  List.filterMap_append

theorem pulsesOf_append (es fs : List Event) : pulsesOf (es ++ fs) = pulsesOf es + pulsesOf fs := List.count_append

/-- Since `s`, with nothing scheduled, the reset was pulsed `n` times and the listed accesses were made. -/
def State.Made (s : State) (n : Nat) (as : List (AccessDir × Nat)) (t : State) : Prop :=
  t.schedule = [] ∧ t.params = s.params ∧ pulsesOf t.trace = pulsesOf s.trace + n
    ∧ accessesOf t.trace = accessesOf s.trace ++ as

theorem State.Made.refl {s : State} (h : s.schedule = []) : s.Made 0 [] s := ⟨h, rfl, rfl, (List.append_nil _).symm⟩

/-- A read and a write of MODE (00 R12). -/
def modeSetbits (p : Params) : List (AccessDir × Nat) := [(.read, p.off .mode), (.write, p.off .mode)]

namespace State.Made

variable {s t : State} {n : Nat} {as : List (AccessDir × Nat)} (h : s.Made n as t)
include h

/-- Steps that append events to the trace add their pulses and accesses. -/
theorem append {u : State} {es : List Event} (hsched : u.schedule = t.schedule.tail) (hparams : u.params = t.params)
    (htrace : u.trace = (interlude t).trace ++ es) : s.Made (n + pulsesOf es) (as ++ accessesOf es) u := by
  obtain ⟨h0, hp, hpulse, hacc⟩ := h
  refine ⟨by rw [hsched, h0, List.tail_nil], hparams.trans hp, ?_, ?_⟩
  · rw [htrace, interlude_of_nil h0, pulsesOf_append, hpulse, Nat.add_assoc]
  · rw [htrace, interlude_of_nil h0, accessesOf_append, hacc, List.append_assoc]

theorem wr (r : Reg) (v : Word) : s.Made n (as ++ [(.write, s.params.off r)]) (wr r v t) :=
  h.2.1 ▸ h.append (wr_schedule r v t) (wr_params r v t) (wr_trace r v t)

theorem rd (r : Reg) : s.Made n (as ++ [(.read, s.params.off r)]) (rd r t).2 :=
  h.2.1 ▸ h.append (rd_schedule r t) (rd_params r t) (rd_trace r t)

/-- The list may be written in any way. -/
theorem cast {bs : List (AccessDir × Nat)} (hbs : as = bs) : s.Made n bs t := hbs ▸ h

theorem setbits (m : Word) : s.Made n (as ++ modeSetbits s.params) (setbits .mode m t) :=
  ((h.rd .mode).wr .mode ((Machine.rd .mode t).1 ||| m)).cast (List.append_assoc ..)

theorem enterReset : s.Made (n + 1) (as ++ [(.write, s.params.off .mode)]) (enterReset t) := by
  have hpulse : s.Made (n + 1) (as ++ []) (pulseStep t) :=
    h.append (pulseStep_schedule t) (pulseStep_params t) (pulseStep_trace t)
  exact (hpulse.cast (List.append_nil as)).wr .mode 0

theorem programFilters : s.Made n
    (as ++ (List.finRange 6).flatMap fun k => [(.write, s.params.off (.idcode k)), (.write, s.params.off (.idmask k))])
    (programFilters t) := by
  unfold Machine.programFilters
  generalize List.finRange 6 = ks
  induction ks generalizing t as with
  | nil => exact h.cast (List.append_nil as).symm
  | cons k ks ih =>
    exact (ih ((h.wr (.idcode k) t.params.filterCode).wr (.idmask k) 0x1FFFFFFF)).cast (by simp)

theorem programFd (fd : Bool) :
    s.Made n (as ++ if fd then (.write, s.params.off .fdtxCtrl) :: modeSetbits s.params else []) (programFd fd t) := by
  cases fd
  · exact h.cast (List.append_nil as).symm
  · exact ((h.wr .fdtxCtrl (bit t.params.fdtxEn)).setbits (bit t.params.modeFd)).cast (List.append_assoc ..)

theorem programLoopback (b : Bool) : s.Made n (as ++ if b then modeSetbits s.params else []) (programLoopback b t) := by
  cases b
  · exact h.cast (List.append_nil as).symm
  · exact h.setbits _

theorem programTdc (o : Option (BitVec 8)) :
    s.Made n (as ++ if o.isSome then [(.write, s.params.off .tdcr)] else []) (programTdc o t) := by
  cases o
  · exact h.cast (List.append_nil as).symm
  · exact h.wr .tdcr _

theorem programFeatures (cfg : CanConfig) :
    s.Made n (as ++ [(.write, s.params.off .rxfifoCtrl)]
        ++ (if cfg.fd then (.write, s.params.off .fdtxCtrl) :: modeSetbits s.params else [])
        ++ (if cfg.loopback then modeSetbits s.params else []) ++ modeSetbits s.params)
      (programFeatures cfg t) :=
  (((h.wr .rxfifoCtrl _).programFd cfg.fd).programLoopback cfg.loopback).setbits _

theorem enterNormal : s.Made n (as ++ modeSetbits s.params) (enterNormal t) := h.setbits _

theorem emitStep {e : Event} (hp : pulsesOf [e] = 0) (ha : accessesOf [e] = []) : s.Made n as (emitStep e t) := by
  simpa [hp, ha] using h.append (emitStep_schedule e t) (emitStep_params e t) (emitStep_trace e t)

theorem acquireStep : s.Made n as (acquireStep t) := by
  have hacq := h.append (acquireStep_schedule t) (acquireStep_params t) (acquireStep_trace t)
  exact hacq.cast (List.append_nil as)

end State.Made

/-- Settles O31: the accesses of each part of start's sequence, one after the other. -/
theorem startAccessesInOrder : Obligations.StartAccessesInOrder := by
  intro s t cfg h hs hc ha hexec
  rw [exec_opStart hs, opStart_of_acquired hc ha] at hexec
  obtain rfl := Host.Outcome.next.inj hexec
  have hbegin : s.Made 0 [] (begin .start s) := State.Made.refl h
  have hseq : s.Made 1 _ (startSequence cfg (acquireStep (begin .start s))) :=
    ((((hbegin.acquireStep.enterReset.wr .intMask _).programFilters.programFeatures cfg).wr .nbtp _).wr .dbtp _
      |>.programTdc _).enterNormal
  obtain ⟨-, -, hpulses, haccesses⟩ := State.Made.emitStep (t := (startSequence cfg (acquireStep (begin .start s))).updHandle
    fun h => { h with busState := .errorActive, outstanding := [] }) hseq (e := .release) rfl rfl
  refine ⟨hpulses, haccesses.trans ?_⟩
  simp [modeSetbits, begin]

end Sys2Proof.Machine
end

