-- ==== Sys2Proof/Proofs/WholeMachine.lean ====
section
/-! PROOF. What every instruction and every step keep (spec/10_state.md R40, R45, R47, R51, R52, spec/60_exceptions.md R302). -/

namespace Sys2Proof.Machine

/-! ### What a step does -/

/-- A rejected request is refused, or faults where the core made it (30 R111, 20 R75). -/
theorem rejectRequest_cases {who : Issuer} {e : DecodeError} {s t : State} (h : rejectRequest who e s = .next t) :
    (∃ r, t = refuse r s) ∨ ∃ off, t = raiseFault off s := by
  have offset : ∀ off, .next (if who = .core then raiseFault off s else refuse .unassignedDescriptor s)
      = (.next t : Host.Outcome State Fault Refusal) → (∃ r, t = refuse r s) ∨ ∃ off, t = raiseFault off s := by
    intro off h
    obtain rfl := Host.Outcome.next.inj h
    split
    · exact .inr ⟨off, rfl⟩
    · exact .inl ⟨_, rfl⟩
  cases e
  case misaligned off => exact offset off h
  case noRegister off => exact offset off h
  case shortOperands | trailingOperands | badOperand => cases h
  all_goals exact .inl ⟨_, (Host.Outcome.next.inj h).symm⟩

/-- A step waits, refuses, faults, or runs an instruction, the request taken (10 R51, 30 R111, log 7). -/
theorem step_cases {s t : State} (h : step s = .next t) :
    t = s ∨ ∃ rest, (∃ r, t = refuse r (s.setInbox rest)) ∨ (∃ off, t = raiseFault off (s.setInbox rest))
      ∨ ∃ i, exec i (s.setInbox rest) = .next t := by
  cases hf : s.fault with
  | some off => simp [step, hf] at h
  | none =>
    simp only [step, hf] at h
    cases hq : s.inbox with
    | nil =>
      simp only [takeRequest, hq] at h
      exact .inl (Host.Outcome.next.inj h).symm
    | cons q rest =>
      simp only [takeRequest, hq, runRequest] at h
      refine .inr ⟨rest, ?_⟩
      split at h
      · cases h
      split at h
      · exact .inl ⟨_, (Host.Outcome.next.inj h).symm⟩
      split at h
      · rcases rejectRequest_cases h with h | h
        · exact .inl h
        · exact .inr (.inl h)
      split at h
      · exact .inr (.inr ⟨_, h⟩)
      · cases h

/-- An operation that needs a valid handle runs on one and is refused without one (42 R199). -/
theorem withHandle_cases {body : State → State} {s t : State} (h : withHandle body s = .next t) :
    s.attached = .live ∧ t = body s ∨ t = refuse .detached s := by
  by_cases hs : s.attached = .live
  · exact .inl ⟨hs, eq_body_of_withHandle h hs⟩
  · exact .inr (Host.Outcome.next.inj ((withHandle_not_live hs).symm.trans h)).symm

/-! ### Properties that the core's steps keep -/

/-- A flag step keeps what its step keeps, its flag set or not (45 R232). -/
theorem whenFlag_keeps_state {P : State → Prop} {step : IsrState → IsrState} (hstep : ∀ x : IsrState, P x.2 → P (step x).2) (n : Nat) {x : IsrState}
    (hx : P x.2) : P (whenFlag n step x).2 := whenFlag_keeps (P := fun x => P x.2) hstep x hx

/-- An event that is no access, no reset and not notify_bus_off: the others a core step emits. -/
def Event.Routine (e : Event) : Prop := accessesOf [e] = [] ∧ pulsesOf [e] = 0 ∧ e ≠ .notifyBusOff

/-- `P` survives each thing a core step is made of that changes no register: the bus-engine steps before it, reads without a
side effect, routine events, draws and changes of the handle. -/
structure KeptByReads (P : State → Prop) : Prop where
  coreStep : ∀ s, P s → P (coreStep s)
  read : ∀ r s, r.isRxport = false → P s → P (accessRead r s).2
  emit : ∀ e s, e.Routine → P s → P (s.emit e)
  answers : ∀ a s, P s → P (s.setAnswers a)
  draws : ∀ k s, P s → P (s.addDraws k)
  handle : ∀ g s, P s → P { s with handle := g }

namespace KeptByReads

variable {P : State → Prop} (h : KeptByReads P)
include h

theorem rd {r : Reg} {s : State} (hs : P s) (hr : r.isRxport = false := by rfl) : P (rd r s).2 :=
  h.read r _ hr (h.coreStep s hs)

theorem emitStep {e : Event} {s : State} (hs : P s) (he : e.Routine := by exact ⟨rfl, rfl, nofun⟩) : P (emitStep e s) :=
  h.emit e _ he (h.coreStep s hs)

theorem acquireStep {s : State} (hs : P s) : P (acquireStep s) :=
  h.draws 1 _ (h.answers _ _ (h.emit _ _ (by exact ⟨rfl, rfl, nofun⟩) (h.coreStep s hs)))

theorem allocStep {s : State} (hs : P s) : P (allocStep s) :=
  h.draws 1 _ (h.answers _ _ (h.emit _ _ (by exact ⟨rfl, rfl, nofun⟩) (h.coreStep s hs)))

theorem receive (hpop : ∀ j s, P s → P (accessRead (.rxport j) s).2) {s : State} (hs : P s) : P (receive s) := by
  have hpop := popPorts_keeps (fun j s hs => hpop j _ (h.coreStep s hs)) (List.finRange 19) s hs
  unfold Machine.receive deliver
  dsimp only
  split
  · exact h.handle _ _ (h.emitStep (h.allocStep hpop))
  · exact h.handle _ _ (h.allocStep hpop)

theorem ensureEf {x : IsrState} (hx : P x.2) : P (ensureEf x).2 := by
  unfold Machine.ensureEf
  split
  · split
    · exact h.allocStep hx
    · exact h.handle _ _ (h.allocStep hx)
  · exact hx

theorem completeEcho {s : State} (hs : P s) : P (completeEcho s) := by
  unfold Machine.completeEcho
  split
  · exact hs
  · exact h.handle _ _ (h.emitStep hs)

theorem stepErrorWarning {x : IsrState} (hx : P x.2) : P (stepErrorWarning x).2 := h.rd hx

theorem stepBusError {x : IsrState} (hx : P x.2) : P (stepBusError x).2 :=
  h.ensureEf (x := (x.1, _)) (h.rd (h.handle _ _ hx))

theorem stepArbitrationLost {x : IsrState} (hx : P x.2) : P (stepArbitrationLost x).2 :=
  h.ensureEf (x := (x.1, _)) (h.rd (h.handle _ _ hx))

theorem deliverEf {x : IsrState} (hx : P x.2) : P (deliverEf x).2 := by
  unfold Machine.deliverEf
  split
  · exact hx
  · exact h.emitStep hx

theorem isrEntry {s : State} (hs : P s) : P (isrEntry s).2 :=
  h.handle _ _ (h.rd (h.handle _ _ (h.rd (h.rd hs))))

theorem stateUpdate (hnotify : ∀ s, P s → P (s.emit .notifyBusOff)) {x : IsrState} (hx : P x.2) : P (stateUpdate x).2 := by
  have hattr := h.ensureEf (x := (x.1, x.2.updHandle fun h => { h with busState := x.1.target })) (h.handle _ _ hx)
  unfold Machine.stateUpdate notifyIfBusOff
  split
  · split
    · exact hnotify _ (h.coreStep _ hattr)
    · exact hattr
  · exact hx

end KeptByReads

/-- `P` survives the pops of the FIFO and the writes besides, but that of INT, which clears flags and stands apart like the
reset pulse. -/
structure KeptBySteps (P : State → Prop) : Prop extends KeptByReads P where
  pop : ∀ j s, P s → P (accessRead (.rxport j) s).2
  write : ∀ r v s, r ≠ .int → P s → P (accessWrite r v s)

/-- The handler's flag steps between the recovery and the state update, which compute the target (45 R237 to R239). -/
def isrTargets (p : Params) (x : IsrState) : IsrState :=
  whenFlag p.intPassiveErr stepErrorPassive
    (whenFlag p.intBusErr stepBusError (whenFlag p.intErrWarn stepErrorWarning x))

/-- Its steps after the recovery (45 R232). -/
def isrAfter (p : Params) (x : IsrState) : IsrState :=
  whenFlag p.intTxLostarb stepArbitrationLost (stateUpdate (isrTargets p x))

/-- Its steps before the recovery: a sent and a received frame (45 R232). -/
def isrBefore (p : Params) (x : IsrState) : IsrState :=
  whenFlag p.intRxFinish stepRxFinish (whenFlag p.intTxFinish stepTxFinish x)

/-- The recovery stands between them (45 R236). -/
theorem isrSteps_eq (p : Params) (x : IsrState) :
    isrSteps p x = isrAfter p (whenFlag p.intRxBufOv stepRxOverrun (isrBefore p x)) := rfl

namespace KeptByReads

variable {P : State → Prop} (h : KeptByReads P)
include h

theorem isrTargets (p : Params) {x : IsrState} (hx : P x.2) : P (isrTargets p x).2 :=
  whenFlag_keeps_state (step := stepErrorPassive) (fun _ => id) _ <|
    whenFlag_keeps_state (step := Machine.stepBusError) (fun _ => h.stepBusError) _ <|
    whenFlag_keeps_state (step := Machine.stepErrorWarning) (fun _ => h.stepErrorWarning) _ hx

/-- After the recovery the handler makes no write before the acknowledge. -/
theorem isrAfter (hnotify : ∀ s, P s → P (s.emit .notifyBusOff)) (p : Params) {x : IsrState} (hx : P x.2) :
    P (isrAfter p x).2 :=
  whenFlag_keeps_state (step := Machine.stepArbitrationLost) (fun _ => h.stepArbitrationLost) _ <|
    h.stateUpdate hnotify (h.isrTargets p hx)

/-- Before it the only side effects are the write of CMD and the pops of the FIFO (45 R234, R235). -/
theorem isrBefore (hcmd : ∀ s, P s → P (accessWrite .cmd 0 s)) (hpop : ∀ j s, P s → P (accessRead (.rxport j) s).2)
    (p : Params) {x : IsrState} (hx : P x.2) :
    P (isrBefore p x).2 :=
  have sent (x : IsrState) (hx : P x.2) : P (stepTxFinish x).2 :=
    h.emitStep (h.completeEcho (hcmd _ (h.coreStep _ (h.handle _ _ (h.rd hx)))))
  whenFlag_keeps_state (step := stepRxFinish) (fun _ => h.receive hpop) _ <| whenFlag_keeps_state (step := stepTxFinish) sent _ hx

end KeptByReads

namespace KeptBySteps

variable {P : State → Prop} (h : KeptBySteps P)
include h

theorem wr {r : Reg} (hr : r ≠ .int) (v : Word) {s : State} (hs : P s) : P (wr r v s) := h.write r v _ hr (h.coreStep s hs)

theorem setbits (m : Word) {s : State} (hs : P s) : P (setbits .mode m s) := h.wr (by decide) _ (h.rd hs)

theorem enterNormal {s : State} (hs : P s) : P (enterNormal s) := h.handle _ _ (h.setbits _ hs)

theorem stageFrame (f : Frame) {s : State} (hs : P s) : P (stageFrame f s) :=
  stagePayload_keeps (fun _ _ => h.wr (by simp) _) _ _ (h.wr (by decide) _ (h.wr (by decide) _ hs))

theorem programFilters {s : State} (hs : P s) : P (programFilters s) :=
  programFilters_keeps (fun _ _ hs => h.wr (by simp) _ (h.wr (by simp) _ hs)) s hs

theorem programFeatures (cfg : CanConfig) {s : State} (hs : P s) : P (programFeatures cfg s) := by
  have hfd : P (programFd cfg.fd (Machine.wr .rxfifoCtrl (bit s.params.rxfifoEn) s)) := by
    unfold programFd
    split
    · exact h.setbits _ (h.wr (by decide) _ (h.wr (by decide) _ hs))
    · exact h.wr (by decide) _ hs
  unfold Machine.programFeatures programLoopback
  split
  · exact h.setbits _ (h.setbits _ hfd)
  · exact h.setbits _ hfd

theorem programTdc (t : Option (BitVec 8)) {s : State} (hs : P s) : P (programTdc t s) := by
  cases t
  · exact hs
  · exact h.wr (by decide) _ hs

section
variable (hpulse : ∀ s, P s → P (resetPulse s))
include hpulse

theorem enterReset {s : State} (hs : P s) : P (enterReset s) :=
  h.handle _ _ (h.wr (by decide) _ (hpulse _ (h.coreStep s hs)))

theorem startSequence (cfg : CanConfig) {s : State} (hs : P s) : P (startSequence cfg s) :=
  h.enterNormal (h.programTdc _ (h.wr (by decide) _ (h.wr (by decide) _ (h.programFeatures cfg (h.programFilters
    (h.wr (by decide) _ (h.enterReset hpulse hs)))))))

theorem stepRxOverrun {x : IsrState} (hx : P x.2) : P (stepRxOverrun x).2 :=
  h.enterNormal (h.enterReset hpulse (h.handle _ _ (h.ensureEf hx)))

theorem isrSteps (hnotify : ∀ s, P s → P (s.emit .notifyBusOff)) (p : Params) {x : IsrState} (hx : P x.2) :
    P (isrSteps p x).2 :=
  h.isrAfter hnotify p <| whenFlag_keeps_state (step := Machine.stepRxOverrun) (fun _ => h.stepRxOverrun hpulse) _ <|
    h.isrBefore (fun s => h.write .cmd 0 s (by decide)) h.pop p hx

end

end KeptBySteps

/-- `P` survives besides how operations begin and end, and the marks (10 R52, 60 R300). -/
structure KeptByOps (P : State → Prop) : Prop extends KeptBySteps P where
  bus : ∀ e s, P s → P (busStep s e)
  notify : ∀ s, P s → P (s.emit .notifyBusOff)
  control : ∀ c s, P s → P (s.setCore c)
  result : ∀ r s, P s → P (s.setResult r)
  refused : ∀ s, P s → P { s with refused := true }
  attached : ∀ a s, P s → P (s.setAttached a)

namespace KeptByOps

variable {P : State → Prop} (h : KeptByOps P)
include h

theorem finish (r : Result) {s : State} (hs : P s) : P (finish r s) := h.result _ _ (h.control _ _ hs)

theorem refuse (r : RefuseReason) {s : State} (hs : P s) : P (refuse r s) := h.finish _ (h.handle _ _ (h.refused _ hs))

theorem withHandle {body : State → State} (hbody : ∀ s, P s → P (body s)) {s t : State}
    (hexec : withHandle body s = .next t) (hs : P s) : P t := by
  obtain ⟨-, rfl⟩ | rfl := withHandle_cases hexec
  · exact hbody s hs
  · exact h.refuse _ hs

theorem opConfigure (cfg : CanConfig) {s : State} (hs : P s) : P (opConfigure cfg s) := by
  unfold Machine.opConfigure
  split
  · exact h.finish _ (h.handle _ _ hs)
  · exact h.finish _ hs

theorem opTransmit (f : Frame) {s : State} (hs : P s) : P (opTransmit f s) := by
  have hread := h.rd (r := .cmd) (h.emitStep (e := .queueStop) (h.control (.running .transmit 0) s hs))
  unfold Machine.opTransmit
  split
  · dsimp only
    split
    · exact h.finish _ hread
    · exact h.finish _ (h.wr (by decide) _ (h.handle _ _ (h.emitStep (h.stageFrame f hread))))
  · exact h.refuse _ hs

theorem opGetBerrCounter {s : State} (hs : P s) : P (opGetBerrCounter s) := by
  have hacq := h.acquireStep (h.control (.running .getBerrCounter 0) s hs)
  unfold Machine.opGetBerrCounter
  dsimp only
  split
  · exact h.finish _ (h.emitStep (h.rd (h.rd hacq)))
  · exact h.finish _ hacq

theorem encodeWith (valid : Bool) (v : Word) {s : State} (hs : P s) : P (encodeWith valid v s) := by
  cases valid
  · exact h.refuse _ hs
  · exact h.finish _ hs

theorem attach {s t : State} (hexec : exec .opAttach s = .next t) (hs : P s) : P t := by
  change execOpAttach s = .next t at hexec
  unfold execOpAttach at hexec
  split at hexec <;> obtain rfl := Host.Outcome.next.inj hexec
  · exact h.finish _ (h.draws _ _ (h.answers _ _ (h.attached _ _ (h.handle _ _ hs))))
  · exact h.refuse _ hs
  · exact h.refuse _ hs

section
variable (hpulse : ∀ s, P s → P (resetPulse s))
include hpulse

theorem opStart {s : State} (hs : P s) : P (opStart s) := by
  have hacq := h.acquireStep (h.control (.running .start 0) s hs)
  unfold Machine.opStart
  split
  · exact h.refuse _ hs
  · dsimp only
    split
    · exact h.finish _ (h.emitStep (h.handle _ _ (h.startSequence hpulse _ hacq)))
    · exact h.finish _ hacq

theorem opStop {s : State} (hs : P s) : P (opStop s) := by
  have hacq := h.acquireStep (h.control (.running .stop 0) s hs)
  unfold Machine.opStop
  dsimp only
  split
  · exact h.finish _ (h.emitStep (h.handle _ _ (h.wr (by decide) _ (h.enterReset hpulse (h.handle _ _ hacq)))))
  · exact h.finish _ hacq

theorem opIsr (hint : ∀ v s, P s → P (accessWrite .int v s)) {s : State} (hs : P s) : P (opIsr s) :=
  h.finish _ (hint _ _ (h.coreStep _ (h.deliverEf (h.isrSteps hpulse h.notify _ (h.isrEntry (h.control _ _ hs))))))

end

/-- What survives the parts survives every instruction, but a write of INT where that write does not keep it, and the reset
pulse where the pulse does not. -/
theorem exec {i : Instr} {s t : State} (hexec : exec i s = .next t) (hs : P s)
    (hint : (∃ v, i = .wrInt v) ∨ i = .opIsr → ∀ v s, P s → P (accessWrite .int v s))
    (hpulse : i = .evResetPulse ∨ i = .opEnterReset ∨ i = .opStart ∨ i = .opStop ∨ i = .opIsr →
      ∀ s, P s → P (resetPulse s)) : P t := by
  induction i using Instr.byKind with
  | read r =>
    obtain rfl := Host.Outcome.next.inj ((exec_readInstr r s).symm.trans hexec)
    by_cases hr : ∃ j, r = .rxport j
    · obtain ⟨j, rfl⟩ := hr
      exact h.result _ _ (h.pop j s hs)
    · exact h.result _ _ (h.read r s (by cases r <;> simp_all [Reg.isRxport]) hs)
  | write r v =>
    obtain rfl := Host.Outcome.next.inj ((exec_writeInstr r v s).symm.trans hexec)
    by_cases hr : r = .int
    · subst hr
      exact h.result _ _ (hint (.inl ⟨v, rfl⟩) v s hs)
    · exact h.result _ _ (h.write r v s hr hs)
  | event e =>
    obtain rfl := Host.Outcome.next.inj ((exec_busInstr e s).symm.trans hexec)
    exact h.bus e s hs
  | pulse =>
    obtain rfl := Host.Outcome.next.inj hexec
    exact hpulse (.inl rfl) s hs
  | attach => exact h.attach hexec hs
  | configure cfg => exact h.withHandle (fun _ => h.opConfigure cfg) hexec hs
  | start => exact h.withHandle (fun _ => h.opStart (hpulse (by simp))) hexec hs
  | stop => exact h.withHandle (fun _ => h.opStop (hpulse (by simp))) hexec hs
  | transmit f => exact h.withHandle (fun _ => h.opTransmit f) hexec hs
  | isr => exact h.withHandle (fun _ => h.opIsr (hpulse (by simp)) (hint (.inr rfl))) hexec hs
  | getBerrCounter => exact h.withHandle (fun _ => h.opGetBerrCounter) hexec hs
  | encodeNominal b => exact h.withHandle (fun _ => h.encodeWith _ _) hexec hs
  | encodeData b => exact h.withHandle (fun _ => h.encodeWith _ _) hexec hs
  | computeTdc c b => exact h.withHandle (fun _ => h.finish _) hexec hs
  | enterReset => exact h.withHandle (fun _ hs => h.result _ _ (h.enterReset (hpulse (by simp)) hs)) hexec hs
  | enterNormal => exact h.withHandle (fun _ hs => h.result _ _ (h.enterNormal hs)) hexec hs
  | receive => exact h.withHandle (fun _ hs => h.result _ _ (h.receive h.pop hs)) hexec hs
  | detach => exact h.withHandle (fun _ hs => h.finish _ (h.attached _ _ (h.handle _ _ hs))) hexec hs

end KeptByOps

theorem regAfterRead_intFlag (r : Reg) (d : Device) (n : Nat) : (regAfterRead r d).intFlag n = d.intFlag n := by
  cases r <;> rfl

/-- No write but that of INT touches a flag (40 R137). -/
theorem regWrite_intFlag {r : Reg} (hr : r ≠ .int) (v : Word) (p : Params) (d : Device) (n : Nat) :
    (regWrite r v p d).intFlag n = d.intFlag n := by
  cases r
  case int => contradiction
  case cmd =>
    rw [regWrite, writeCmd_eq]
    rfl
  all_goals rfl

/-- Settles O57: no other instruction pulses the reset or writes INT, and nothing else clears a flag. -/
theorem flagsAreClearedOnlyByAcknowledgeOrReset : Obligations.FlagsAreClearedOnlyByAcknowledgeOrReset := by
  intro i s t n hexec hset hclear
  have hkept : KeptByOps fun t => t.dev.intFlag n = true := {
    coreStep := fun s hs => by rw [coreStep_dev]; exact interlude_intFlag hs
    bus := fun _ _ => busStep_intFlag
    notify := fun _ => id
    read := fun r s _ hs => by simpa [accessRead, readReg, regAfterRead_intFlag] using hs
    pop := fun _ _ => id
    write := fun r v s hr hs => by simpa [accessWrite, writeReg, regWrite_intFlag hr] using hs
    emit := fun _ _ _ => id
    answers := fun _ _ => id
    draws := fun _ _ => id
    handle := fun _ _ => id
    control := fun _ _ => id
    result := fun _ _ => id
    refused := fun _ => id
    attached := fun _ _ => id }
  by_contra hi
  push Not at hi
  obtain ⟨hint, hpulse, hreset, hstart, hstop, hisr⟩ := hi
  have : t.dev.intFlag n = true := hkept.exec hexec hset
    (fun h => by
      obtain ⟨v, rfl⟩ | rfl := h
      · exact absurd rfl (hint v)
      · exact absurd rfl hisr)
    (fun h => by simp [hpulse, hreset, hstart, hstop, hisr] at h)
  rw [hclear] at this
  cases this

/-- No instruction touches the parameters or the fault mark, or clears the refusal mark (00 R13, 10 R51). -/
theorem exec_marks {i : Instr} {s t : State} (hexec : exec i s = .next t) :
    t.params = s.params ∧ t.fault = s.fault ∧ (s.refused = true → t.refused = true) := by
  have hkept : KeptByOps fun t => t.params = s.params ∧ t.fault = s.fault ∧ (s.refused = true → t.refused = true) := {
    coreStep := fun u hu => by simpa using hu
    bus := fun e u hu => by simpa using hu
    notify := fun _ => id
    read := fun _ _ _ => id
    pop := fun _ _ => id
    write := fun _ _ _ _ => id
    emit := fun _ _ _ => id
    answers := fun _ _ => id
    draws := fun _ _ => id
    handle := fun _ _ => id
    control := fun _ _ => id
    result := fun _ _ => id
    refused := fun _ hu => ⟨hu.1, hu.2.1, fun _ => rfl⟩
    attached := fun _ _ => id }
  exact hkept.exec hexec ⟨rfl, rfl, id⟩ (fun _ _ _ => id) (fun _ _ => id)

/-- Settles O56: the first part from the second, a step being a refusal, a fault or an instruction. -/
theorem marksAndParametersStay : Obligations.MarksAndParametersStay := by
  refine ⟨fun s t hstep => ?_, fun i s t hexec => ?_⟩
  · obtain rfl | ⟨rest, ⟨r, rfl⟩ | ⟨off, rfl⟩ | ⟨i, hexec⟩⟩ := step_cases hstep
    · exact ⟨rfl, id⟩
    · exact ⟨rfl, fun _ => rfl⟩
    · exact ⟨rfl, id⟩
    · obtain ⟨hparams, -, hrefused⟩ := exec_marks hexec
      exact ⟨hparams, hrefused⟩
  · obtain ⟨hparams, hfault, -⟩ := exec_marks hexec
    exact ⟨hparams, hfault⟩

/-! ### What each operation writes of the handle -/

/-- A refusal writes its mark (10 R51). -/
theorem refuse_handle (r : RefuseReason) (s : State) :
    (refuse r s).handle = { s.handle with refused := (refuse r s).handle.refused } := by
  rw [refuse_eq]
  unfold State.refusedHandle
  split <;> rfl

theorem opStart_handle (s : State) :
    (opStart s).handle = { s.handle with
      mode := (opStart s).handle.mode, busState := (opStart s).handle.busState,
      outstanding := (opStart s).handle.outstanding, refused := (opStart s).handle.refused } := by
  unfold opStart
  split
  · simp only [refuse_eq, State.refusedHandle]
    split <;> rfl
  · dsimp only
    split <;> simp [finish, begin, startSequence_handle]

theorem opStop_handle (s : State) :
    (opStop s).handle = { s.handle with
      mode := (opStop s).handle.mode, busState := (opStop s).handle.busState,
      outstanding := (opStop s).handle.outstanding } := by
  unfold opStop
  dsimp only
  split <;> simp [finish, begin, enterReset_handle]

theorem opTransmit_handle (f : Frame) (s : State) :
    (opTransmit f s).handle = { s.handle with
      outstanding := (opTransmit f s).handle.outstanding, refused := (opTransmit f s).handle.refused } := by
  unfold opTransmit
  split
  · dsimp only
    split
    · simp [finish, begin]
    · simp [submit, finish, begin]
  · rw [refuse_handle]

theorem opGetBerrCounter_handle (s : State) : (opGetBerrCounter s).handle = s.handle := by
  unfold opGetBerrCounter
  dsimp only
  split <;> simp [finish, begin]

theorem encodeWith_handle (valid : Bool) (v : Word) (s : State) :
    (encodeWith valid v s).handle = { s.handle with refused := (encodeWith valid v s).handle.refused } := by
  cases valid
  · exact refuse_handle _ _
  · rfl

theorem receive_handle (s : State) : (receive s).handle = { s.handle with stats := (receive s).handle.stats } := by
  simp [receive, deliver_handle]

/-- The overrun is counted and the mode is normal after the recovery (45 R236). -/
theorem stepRxOverrun_handle (x : IsrState) :
    (stepRxOverrun x).2.handle = { (ensureEf x).2.handle with
      mode := .normal,
      stats := { (ensureEf x).2.handle.stats with
        rxOverErrors := (ensureEf x).2.handle.stats.rxOverErrors + 1,
        rxErrors := (ensureEf x).2.handle.stats.rxErrors + 1 } } := by
  simp [stepRxOverrun, countIn, editEf, enterNormal_handle, enterReset_handle]

/-- The part of the handle that the handler leaves alone between its counter reads and the acknowledge, the rest as attach
creates it: the bus state, h.mode, the statistics and the echoes are what it writes there (45 R232). -/
def Handle.isrKept (h : Handle) : Handle :=
  { h with mode := .reset, busState := .stopped, stats := .zero, outstanding := [] }

theorem Handle.isrKept_eq_iff {h h' : Handle} : h'.isrKept = h.isrKept ↔
    h'.clockHz = h.clockHz ∧ h'.txerr = h.txerr ∧ h'.rxerr = h.rxerr ∧ h'.config = h.config ∧ h'.fault = h.fault
      ∧ h'.refused = h.refused := by
  simp [Handle.isrKept]

theorem ensureEf_isrKept (x : IsrState) : (ensureEf x).2.handle.isrKept = x.2.handle.isrKept := by
  obtain ⟨-, -, -, h | h⟩ := ensureEf_spec x
  · rw [h]
  · rw [h]
    rfl

theorem stateUpdate_isrKept (x : IsrState) : (stateUpdate x).2.handle.isrKept = x.2.handle.isrKept := by
  have hattr := ensureEf_isrKept (x.1, x.2.updHandle fun h => { h with busState := x.1.target })
  unfold stateUpdate notifyIfBusOff
  split
  · split
    · rw [emitStep_handle]
      exact hattr
    · exact hattr
  · rfl

theorem isrSteps_isrKept (p : Params) (x : IsrState) : (isrSteps p x).2.handle.isrKept = x.2.handle.isrKept := by
  have flag {n : Nat} {step : IsrState → IsrState} (hstep : ∀ x : IsrState, (step x).2.handle.isrKept = x.2.handle.isrKept)
      (x : IsrState) : (whenFlag n step x).2.handle.isrKept = x.2.handle.isrKept := by
    unfold whenFlag
    split
    · exact hstep x
    · rfl
  unfold isrSteps
  rw [flag, stateUpdate_isrKept, flag, flag, flag, flag, flag, flag]
  · exact fun x => by simp [stepTxFinish, Handle.isrKept]
  · exact fun x => (congrArg Handle.isrKept (receive_handle x.2) :)
  · exact fun x => by
      rw [stepRxOverrun_handle]
      exact ensureEf_isrKept x
  · exact fun x => by simp [stepErrorWarning]
  · exact fun x => (ensureEf_isrKept _).trans (by simp [Handle.isrKept])
  · exact fun x => rfl
  · exact fun x => (ensureEf_isrKept _).trans (by simp [Handle.isrKept])

theorem deliverEf_handle (x : IsrState) : (deliverEf x).2.handle = x.2.handle := by
  unfold deliverEf
  split <;> simp

/-- Between its counter reads and its end the handler leaves the clock, the counters, the configuration and the marks. -/
theorem opIsr_isrKept (s : State) : (opIsr s).handle.isrKept = (isrEntry (begin .isr s)).2.handle.isrKept := by
  simp [opIsr, finish, acknowledge, deliverEf_handle, isrSteps_isrKept]

/-! ### Who writes the handle -/

/-- What instruction `i` may change from the handle `h` to `h'`, attach and detach aside (10 R45, R47, 42 R196). -/
structure HandleWrites (i : Instr) (h h' : Handle) : Prop where
  mode : h'.mode = h.mode ∨ i = .opEnterReset ∨ i = .opEnterNormal ∨ i = .opStart ∨ i = .opStop ∨ i = .opIsr
  busState : h'.busState = h.busState ∨ i = .opStart ∨ i = .opStop ∨ i = .opIsr
  counters : h'.txerr = h.txerr ∧ h'.rxerr = h.rxerr ∨ i = .opIsr
  clockHz : h'.clockHz = h.clockHz
  config : h'.config = h.config ∨ h'.config.all CanConfig.valid = true

/-- Any instruction may write the echoes, the refusal mark and the statistics. -/
theorem HandleWrites.of_eq {i : Instr} {h h' : Handle} {o : List SlotId} {b : Bool} {st : Stats}
    (e : h' = { h with outstanding := o, refused := b, stats := st }) : HandleWrites i h h' := by
  subst e
  exact ⟨.inl rfl, .inl rfl, .inl ⟨rfl, rfl⟩, rfl, .inl rfl⟩

theorem HandleWrites.refuse (i : Instr) (r : RefuseReason) (s : State) :
    HandleWrites i s.handle (refuse r s).handle := .of_eq (refuse_handle r s)

theorem HandleWrites.withHandle {i : Instr} {body : State → State} {s t : State} (hexec : withHandle body s = .next t)
    (hbody : HandleWrites i s.handle (body s).handle) : HandleWrites i s.handle t.handle := by
  obtain ⟨-, rfl⟩ | rfl := withHandle_cases hexec
  · exact hbody
  · exact .refuse i _ s

theorem opConfigure_writes (cfg : CanConfig) (s : State) :
    HandleWrites (.opConfigure cfg) s.handle (opConfigure cfg s).handle := by
  cases hv : CanConfig.valid cfg
  · rw [opConfigure_of_invalid hv]
    exact .of_eq rfl
  · rw [opConfigure_of_valid hv]
    exact ⟨.inl rfl, .inl rfl, .inl ⟨rfl, rfl⟩, rfl, .inr hv⟩

theorem opIsr_writes (s : State) : HandleWrites .opIsr s.handle (opIsr s).handle := by
  obtain ⟨hclock, -, -, hconfig, -⟩ := Handle.isrKept_eq_iff.mp (opIsr_isrKept s)
  exact ⟨by simp, by simp, .inr rfl, hclock.trans (by simp [isrEntry, begin]),
    .inl (hconfig.trans (by simp [isrEntry, begin]))⟩

/-- Every instruction but attach and detach writes of the handle what is its to write. -/
theorem exec_writes {i : Instr} {s t : State} (hexec : exec i s = .next t) (hatt : i ≠ .opAttach) (hdet : i ≠ .opDetach) :
    HandleWrites i s.handle t.handle := by
  induction i using Instr.byKind with
  | read r =>
    obtain rfl := Host.Outcome.next.inj ((exec_readInstr r s).symm.trans hexec)
    exact .of_eq rfl
  | write r v =>
    obtain rfl := Host.Outcome.next.inj ((exec_writeInstr r v s).symm.trans hexec)
    exact .of_eq rfl
  | event e =>
    obtain rfl := Host.Outcome.next.inj ((exec_busInstr e s).symm.trans hexec)
    exact .of_eq (busStep_handle s e)
  | pulse =>
    obtain rfl := Host.Outcome.next.inj hexec
    exact .of_eq rfl
  | attach => contradiction
  | detach => contradiction
  | configure cfg => exact .withHandle hexec (opConfigure_writes cfg s)
  | start =>
    refine .withHandle hexec ?_
    rw [opStart_handle]
    exact ⟨by simp, by simp, .inl ⟨rfl, rfl⟩, rfl, .inl rfl⟩
  | stop =>
    refine .withHandle hexec ?_
    rw [opStop_handle]
    exact ⟨by simp, by simp, .inl ⟨rfl, rfl⟩, rfl, .inl rfl⟩
  | transmit f => exact .withHandle hexec (.of_eq (opTransmit_handle f s))
  | isr => exact .withHandle hexec (opIsr_writes s)
  | getBerrCounter => exact .withHandle hexec (.of_eq (opGetBerrCounter_handle s))
  | encodeNominal b => exact .withHandle hexec (.of_eq (encodeWith_handle _ _ s))
  | encodeData b => exact .withHandle hexec (.of_eq (encodeWith_handle _ _ s))
  | computeTdc c b => exact .withHandle hexec (.of_eq rfl)
  | enterReset =>
    refine .withHandle (body := fun s => (enterReset s).setResult .ok) hexec ?_
    rw [State.setResult_handle, enterReset_handle]
    exact ⟨by simp, .inl rfl, .inl ⟨rfl, rfl⟩, rfl, .inl rfl⟩
  | enterNormal =>
    refine .withHandle (body := fun s => (enterNormal s).setResult .ok) hexec ?_
    rw [State.setResult_handle, enterNormal_handle]
    exact ⟨by simp, .inl rfl, .inl ⟨rfl, rfl⟩, rfl, .inl rfl⟩
  | receive => exact .withHandle (body := fun s => (receive s).setResult .ok) hexec (.of_eq (receive_handle s))

/-- Settles O58. -/
theorem handleFieldsHaveTheirWriters : Obligations.HandleFieldsHaveTheirWriters := by
  intro i s t hexec hatt hdet
  have h := exec_writes hexec hatt hdet
  exact ⟨h.mode, h.counters, h.clockHz⟩

/-! ### BusOff -/

/-- The handler's steps leave BusOff: the state update leaves it alone, and the others do not write the bus state (45 R242). -/
theorem isrSteps_busOff (p : Params) {x : IsrState} (hx : x.2.handle.busState = .busOff) :
    (isrSteps p x).2.handle.busState = .busOff := by
  have ensure : ∀ x, (ensureEf x).2.handle.busState = x.2.handle.busState := by
    intro x
    obtain ⟨-, -, -, h | h⟩ := ensureEf_spec x <;> rw [h]
  have flag (n : Nat) (step : IsrState → IsrState)
      (hstep : ∀ x : IsrState, (step x).2.handle.busState = x.2.handle.busState) (x : IsrState)
      (hx : x.2.handle.busState = .busOff) : (whenFlag n step x).2.handle.busState = .busOff :=
    whenFlag_keeps (P := fun x => x.2.handle.busState = .busOff) (fun x hx => (hstep x).trans hx) x hx
  have update (x : IsrState) (hx : x.2.handle.busState = .busOff) : (stateUpdate x).2.handle.busState = .busOff := by
    rwa [stateUpdate_of_left_alone (.inl hx)]
  exact flag _ stepArbitrationLost (fun x => (ensure _).trans (by simp)) _ <| update _ <|
    flag _ stepErrorPassive (fun _ => rfl) _ <| flag _ stepBusError (fun x => (ensure _).trans (by simp)) _ <|
    flag _ stepErrorWarning (fun x => by simp [stepErrorWarning]) _ <| flag _ stepRxOverrun
      (fun x => (congrArg Handle.busState (stepRxOverrun_handle x)).trans (ensure x)) _ <|
    flag _ stepRxFinish (fun x => (congrArg Handle.busState (receive_handle x.2) :)) _ <|
    flag _ stepTxFinish (fun x => by simp [stepTxFinish]) _ hx

theorem opIsr_busOff {s : State} (hs : s.handle.busState = .busOff) : (opIsr s).handle.busState = .busOff := by
  have h := isrSteps_busOff s.params (x := isrEntry (begin .isr s)) (by simpa [isrEntry, begin] using hs)
  simpa [opIsr, finish, acknowledge, deliverEf_handle] using h

/-- Settles O54: apart from start, stop and detach only the handler and attach write the bus state; the handler leaves
BusOff, and attach is refused on a live handle. -/
theorem busOffIsLeftOnlyByStartOrStop : Obligations.BusOffIsLeftOnlyByStartOrStop := by
  intro i s t hexec hs hoff hstart hstop hdet
  by_cases hatt : i = .opAttach
  · subst hatt
    obtain rfl := Host.Outcome.next.inj (((attachCreatesTheHandle s).2.1 hs).symm.trans hexec)
    exact hoff
  obtain h | rfl | rfl | rfl := (exec_writes hexec hatt hdet).busState
  · exact h.trans hoff
  · contradiction
  · contradiction
  · rw [eq_body_of_withHandle (body := opIsr) hexec hs]
    exact opIsr_busOff hoff

/-! ### The invariant -/

/-- The FIFO holds at most the depth of the parameters `p`, and no empty entry (10 R40). -/
def Device.FifoOk (p : Params) (d : Device) : Prop := d.rxfifo.length ≤ p.rxFifoDepth ∧ ∀ e ∈ d.rxfifo, e ≠ []

/-- A bus-engine step leaves the FIFO or, where there is room, appends an entry of 19 words (46 R260). -/
theorem busDevice_rxfifo (p : Params) (c : TxPick) (d : Device) (e : BusEvent) :
    (busDevice p c d e).rxfifo = d.rxfifo
      ∨ d.rxfifo.length < p.rxFifoDepth ∧ ∃ w : Vector Word 19, (busDevice p c d e).rxfifo = d.rxfifo ++ [w.toList] := by
  cases e with
  | rxArrive w a =>
    simp only [busDevice]
    rcases rxArrive_cases p w a d with h | ⟨hroom, h⟩ | h <;> rw [h]
    · exact .inl rfl
    · exact .inr ⟨hroom, w, rfl⟩
    · exact .inl rfl
  | txComplete x =>
    simp only [busDevice, txComplete]
    split
    · cases x <;> exact .inl rfl
    · exact .inl rfl
  | txWithdraw x => cases x <;> exact .inl rfl
  | errState rxc txc warn busoff rw rp => cases rw <;> cases rp <;> exact .inl rfl
  | _ => exact .inl rfl

theorem busStep_fifoOk {p : Params} {s : State} (hp : s.params = p) (h : s.dev.FifoOk p) (e : BusEvent) :
    (busStep s e).dev.FifoOk p := by
  subst hp
  obtain ⟨hlen, hne⟩ := h
  unfold busStep
  split
  · simp only [State.takePicks_dev, State.updDev_dev, State.emitAll_dev, State.emitAll_params, Device.FifoOk]
    obtain h | ⟨hroom, w, h⟩ := busDevice_rxfifo s.params s.nextPick s.dev e <;> rw [h]
    · exact ⟨hlen, hne⟩
    · have hw : w.toList ≠ [] := List.ne_nil_of_length_pos (by simp)
      refine ⟨by simpa using hroom, fun x hx => ?_⟩
      obtain hx | rfl : x ∈ s.dev.rxfifo ∨ x = w.toList := by simpa using hx
      · exact hne x hx
      · exact hw
  · exact ⟨hlen, hne⟩

/-- The pop lengthens nothing and leaves no empty entry (40 R168). -/
theorem popFifo_ok {fifo : List (List Word)} {n : Nat} (hlen : fifo.length ≤ n) (hne : ∀ e ∈ fifo, e ≠ []) :
    (popFifo fifo).length ≤ n ∧ ∀ e ∈ popFifo fifo, e ≠ [] := by
  match fifo with
  | [] => exact ⟨hlen, hne⟩
  | [] :: rest => exact absurd rfl (hne [] (by simp))
  | (w :: ws) :: rest =>
    rw [popFifo_cons]
    simp only [List.length_cons, List.mem_cons, forall_eq_or_imp] at hlen hne
    split
    · exact ⟨by omega, hne.2⟩
    · next hws => exact ⟨hlen, by simpa using ⟨hws, hne.2⟩⟩

theorem Device.FifoOk.regAfterRead {p : Params} {d : Device} (h : d.FifoOk p) (r : Reg) : (regAfterRead r d).FifoOk p := by
  cases r
  case rxport j => exact popFifo_ok h.1 h.2
  all_goals exact h

theorem regWrite_rxfifo (r : Reg) (v : Word) (p : Params) (d : Device) : (regWrite r v p d).rxfifo = d.rxfifo := by
  cases r
  case cmd =>
    rw [regWrite, writeCmd_eq]
  all_goals rfl

theorem Device.FifoOk.regWrite {p : Params} {d : Device} (h : d.FifoOk p) (r : Reg) (v : Word) (q : Params) :
    (regWrite r v q d).FifoOk p := by
  rwa [Device.FifoOk, regWrite_rxfifo]

theorem exec_fifoOk {i : Instr} {s t : State} (hexec : exec i s = .next t) (h : s.dev.FifoOk s.params) :
    t.dev.FifoOk s.params := by
  have hkept : KeptByOps fun t => t.params = s.params ∧ t.dev.FifoOk s.params := {
    coreStep := fun u hu => interlude_keeps (P := fun t => t.params = s.params ∧ t.dev.FifoOk s.params)
      (fun u e hu => ⟨(busStep_params u e).trans hu.1, busStep_fifoOk hu.1 hu.2 e⟩) (fun _ _ => id) u hu
    bus := fun e u hu => ⟨(busStep_params u e).trans hu.1, busStep_fifoOk hu.1 hu.2 e⟩
    notify := fun _ => id
    read := fun r _ _ hu => ⟨hu.1, hu.2.regAfterRead r⟩
    pop := fun j _ hu => ⟨hu.1, hu.2.regAfterRead (.rxport j)⟩
    write := fun r v u _ hu => ⟨hu.1, hu.2.regWrite r v u.params⟩
    emit := fun _ _ _ => id
    answers := fun _ _ => id
    draws := fun _ _ => id
    handle := fun _ _ => id
    control := fun _ _ => id
    result := fun _ _ => id
    refused := fun _ => id
    attached := fun _ _ => id }
  exact (hkept.exec hexec ⟨rfl, h⟩ (fun _ v u hu => ⟨hu.1, hu.2.regWrite .int v u.params⟩)
    (fun _ _ hu => ⟨hu.1, Nat.zero_le _, List.forall_mem_nil _⟩)).2

/-- While the core is idle, its point of control stays so through the steps of a core-only operation (10 R52). -/
theorem keptBySteps_core : KeptBySteps fun s => s.core = .idle where
  coreStep := fun s hs => by rw [coreStep_core, hs]; rfl
  read := fun _ _ _ => id
  pop := fun _ _ => id
  write := fun _ _ _ _ => id
  emit := fun _ _ _ => id
  answers := fun _ _ => id
  draws := fun _ _ => id
  handle := fun _ _ => id

theorem encodeWith_core (valid : Bool) (v : Word) (s : State) : (encodeWith valid v s).core = .idle := by
  cases valid <;> rfl

/-- Every instruction leaves the core idle: an operation of its own ends so, and one of another's runs no program of its own
(10 R52). -/
theorem exec_core {i : Instr} {s t : State} (hexec : exec i s = .next t) (hs : s.core = .idle) : t.core = .idle := by
  have op {body : State → State} (hexec : withHandle body s = .next t) (hbody : (body s).core = .idle) : t.core = .idle := by
    obtain ⟨-, rfl⟩ | rfl := withHandle_cases hexec
    · exact hbody
    · rfl
  induction i using Instr.byKind with
  | read r =>
    obtain rfl := Host.Outcome.next.inj ((exec_readInstr r s).symm.trans hexec)
    exact hs
  | write r v =>
    obtain rfl := Host.Outcome.next.inj ((exec_writeInstr r v s).symm.trans hexec)
    exact hs
  | event e =>
    obtain rfl := Host.Outcome.next.inj ((exec_busInstr e s).symm.trans hexec)
    exact (busStep_core s e).trans hs
  | pulse =>
    obtain rfl := Host.Outcome.next.inj hexec
    exact hs
  | attach =>
    change execOpAttach s = .next t at hexec
    unfold execOpAttach at hexec
    split at hexec <;> obtain rfl := Host.Outcome.next.inj hexec <;> rfl
  | configure cfg =>
    refine op hexec ?_
    unfold opConfigure
    split <;> rfl
  | start =>
    refine op hexec ?_
    unfold opStart
    split
    · rfl
    · dsimp only
      split <;> rfl
  | stop =>
    refine op hexec ?_
    unfold opStop
    dsimp only
    split <;> rfl
  | transmit f =>
    refine op hexec ?_
    unfold opTransmit
    split
    · dsimp only
      split <;> rfl
    · rfl
  | isr => exact op hexec rfl
  | getBerrCounter =>
    refine op hexec ?_
    unfold opGetBerrCounter
    dsimp only
    split <;> rfl
  | encodeNominal b => exact op hexec (encodeWith_core _ _ s)
  | encodeData b => exact op hexec (encodeWith_core _ _ s)
  | computeTdc c b => exact op hexec rfl
  | enterReset =>
    exact op (body := fun s => (enterReset s).setResult .ok) hexec (keptBySteps_core.enterReset (fun _ => id) hs)
  | enterNormal => exact op (body := fun s => (enterNormal s).setResult .ok) hexec (keptBySteps_core.enterNormal hs)
  | receive => exact op (body := fun s => (receive s).setResult .ok) hexec (keptBySteps_core.receive keptBySteps_core.pop hs)
  | detach =>
    exact op (body := fun s => finish .ok ((s.updHandle fun _ => Handle.fresh 0).setAttached .invalid)) hexec rfl

/-- A handle that attach creates or detach leaves has no configuration (10 R56, log 12). -/
theorem exec_config {i : Instr} {s t : State} (hexec : exec i s = .next t)
    (hs : s.handle.config.all CanConfig.valid = true) : t.handle.config.all CanConfig.valid = true := by
  by_cases hatt : i = .opAttach
  · subst hatt
    change execOpAttach s = .next t at hexec
    unfold execOpAttach at hexec
    split at hexec <;> obtain rfl := Host.Outcome.next.inj hexec
    · rfl
    · rwa [refuse_handle]
    · rwa [refuse_handle]
  by_cases hdet : i = .opDetach
  · subst hdet
    obtain ⟨-, rfl⟩ | rfl := withHandle_cases (body := fun s => finish .ok ((s.updHandle fun _ => Handle.fresh 0).setAttached
      .invalid)) hexec
    · rfl
    · rwa [refuse_handle]
  obtain h | h := (exec_writes hexec hatt hdet).config
  · rwa [h]
  · exact h

theorem exec_inv {i : Instr} {s t : State} (hexec : exec i s = .next t) (h : s.Inv) : t.Inv := by
  obtain ⟨hp, hlen, hne, hconfig, hcore⟩ := h
  have hparams := (exec_marks hexec).1
  obtain ⟨hlen', hne'⟩ := exec_fifoOk hexec ⟨hlen, hne⟩
  exact ⟨hparams ▸ hp, hparams ▸ hlen', hne', exec_config hexec hconfig, exec_core hexec hcore⟩

/-- Settles O60: waiting, a refusal and a fault touch nothing the invariant speaks of but the point of control, and every
instruction keeps it. -/
theorem everyStepKeepsTheInvariant : Obligations.EveryStepKeepsTheInvariant := by
  intro s t h hstep
  obtain rfl | ⟨rest, ⟨r, rfl⟩ | ⟨off, rfl⟩ | ⟨i, hexec⟩⟩ := step_cases hstep
  · exact h
  · obtain ⟨hp, hlen, hne, hconfig, -⟩ := h
    exact ⟨hp, hlen, hne, by rw [refuse_handle]; exact hconfig, rfl⟩
  · obtain ⟨hp, hlen, hne, hconfig, -⟩ := h
    exact ⟨hp, hlen, hne, by simpa [raiseFault_eq] using hconfig, rfl⟩
  · exact exec_inv hexec h

/-- Settles O59. -/
theorem invariantHoldsAtReset : Obligations.InvariantHoldsAtReset :=
  ⟨by decide, Nat.zero_le _, List.forall_mem_nil _, rfl, rfl⟩

end Sys2Proof.Machine
end

