-- ==== Sys2Proof/Proofs/TransmitReceive.lean ====
section
/-! PROOF. The transmit and the receive path (spec/43_transmit.md R211 to R215, spec/44_receive.md R221 to R224). -/

namespace Sys2Proof.Machine

/-! ### Well-formed frames -/

/-- The lengths with a code (30 R98). -/
theorem len2dlc_isSome_iff (n : Nat) : (len2dlc n).isSome = true ↔ n ≤ 8 ∨ n ∈ [12, 16, 20, 24, 32, 48, 64] := by
  unfold len2dlc
  split_ifs <;> simp [*]

/-- Settles O37. -/
theorem acceptedFramesAreTheWellFormed : Obligations.AcceptedFramesAreTheWellFormed := by
  intro f
  simp only [wellFormedFrame, Bool.and_eq_true, len2dlc_isSome_iff, and_assoc]
  cases f.isFd <;> cases f.isRemote <;> cases f.bitRateSwitch <;> cases f.isExtended <;> simp

/-- The code of a well-formed frame's length is read back as that length (30 R98, R99). -/
theorem dlc2len_len2dlc {f : Frame} (h : wellFormedFrame f = true) :
    dlc2len f.isFd ((len2dlc f.length).getD 0) = f.length := by
  obtain ⟨hfd, hlen, -⟩ := (acceptedFramesAreTheWellFormed f).mp h
  obtain ⟨c, hc⟩ := Option.isSome_iff_exists.mp ((len2dlc_isSome_iff f.length).mpr hlen)
  rw [hc, Option.getD_some]
  cases hb : f.isFd
  · -- a classic frame's code is its length
    have hle : f.length ≤ 8 := by simpa [hb] using hfd
    rw [len2dlc, if_pos hle] at hc
    obtain rfl := Option.some.inj hc
    have hmod : f.length % 2 ^ 4 = f.length := Nat.mod_eq_of_lt (by omega)
    simp only [dlc2len, Bool.false_eq_true, if_false, BitVec.toNat_ofNat, hmod]
    omega
  · exact dlc2len_of_len2dlc hc

/-- The flags and the code of a DLC/flags word, each at its position (30 R96). -/
theorem dlcWord_bits (f : Frame) :
    (dlcWord f).getLsbD 7 = f.isExtended ∧ (dlcWord f).getLsbD 6 = f.isRemote ∧ (dlcWord f).getLsbD 5 = f.isFd
      ∧ (dlcWord f).getLsbD 4 = f.bitRateSwitch ∧ (dlcWord f).extractLsb' 0 4 = (len2dlc f.length).getD 0 := by
  unfold dlcWord
  generalize (len2dlc f.length).getD 0 = c
  revert c
  cases f.isExtended <;> cases f.isRemote <;> cases f.isFd <;> cases f.bitRateSwitch <;> decide

/-- Masking twice is masking once, and an identifier within the mask is untouched. -/
theorem and_mask_and_mask {w m : Word} {k : Nat} (hm : m.toNat = 2 ^ k - 1) (hw : w.toNat < 2 ^ k) : w &&& m &&& m = w := by
  apply BitVec.eq_of_toNat_eq
  rw [BitVec.and_assoc, BitVec.and_self, BitVec.toNat_and, hm, Nat.and_two_pow_sub_one_eq_mod, Nat.mod_eq_of_lt hw]

/-- Each byte of a word is read back (20 R74). -/
theorem littleEndian_byte (b : Nat → Byte) {k : Nat} (hk : k < 4) :
    (littleEndian (b 0) (b 1) (b 2) (b 3) >>> (8 * k)).setWidth 8 = b k := by
  apply BitVec.eq_of_getLsbD_eq
  intro i hi
  simp only [littleEndian]
  interval_cases k <;> simp [hi] <;> grind

/-- Byte `b` of the payload words is byte `b` of the payload (43 R213, 44 R221). -/
theorem entryByte_payloadWord {f : Frame} {d : List Word} {b : Nat} (h : d.getD (b / 4) 0 = payloadWord f (b / 4)) :
    entryByte d b = payloadByte f b := by
  have hb := littleEndian_byte (fun k => payloadByte f (4 * (b / 4) + k)) (Nat.mod_lt b (by decide : 0 < 4))
  rw [entryByte, h]
  exact hb.trans (congrArg (payloadByte f) (Nat.div_add_mod b 4))

/-- Settles O42. -/
theorem stagedFramesDecodeBack : Obligations.StagedFramesDecodeBack := by
  intro f d hf hd
  obtain ⟨hx, hr, hfd, hbrs, hcode⟩ := dlcWord_bits f
  obtain ⟨-, -, -, hbrs', hpay, hpay', hid⟩ := (acceptedFramesAreTheWellFormed f).mp hf
  have hidword : (if f.isExtended then idWord f &&& 0x1FFFFFFF#32 else idWord f &&& 0x000007FF#32) = f.id := by
    unfold idWord
    split at hid
    · next h => simpa [h] using and_mask_and_mask (k := 29) rfl hid
    · next h => simpa [h] using and_mask_and_mask (k := 11) rfl hid
  have hbrs'' : (f.bitRateSwitch && f.isFd) = f.bitRateSwitch := by
    cases h : f.bitRateSwitch
    · rfl
    · simpa using hbrs' h
  have hpayload : (if f.isRemote then [] else (List.range f.length).map (entryByte d)) = f.payload := by
    split
    · next h => exact (hpay'.resolve_left (by simp [h])).symm
    · next h =>
      have hlen := hpay.resolve_left h
      refine List.ext_getElem (by simp [hlen]) fun b h1 h2 => ?_
      have hb : b < f.length := by simpa using h1
      rw [List.getElem_map, List.getElem_range, entryByte_payloadWord (hd (b / 4) (by unfold wordsFor; omega))]
      simp [payloadByte, h, hb, h2]
  simp only [decodeFrame, hx, hr, hfd, hbrs, hcode, dlc2len_len2dlc hf, hidword, hbrs'', hpayload]

/-! ### Transmit -/

/-- The request bits as a read of CMD answers them (40 R132). -/
theorem readCmd_bits {p : Params} (hp : p.Admissible) (d : Device) (fresh : Word) :
    (readCmd p d fresh).getLsbD p.cmdTxreq0 = d.req0 ∧ (readCmd p d fresh).getLsbD p.cmdTxreq1 = d.req1 := by
  obtain ⟨h0, h1, hne⟩ := hp.cmd
  simp only [readCmd, withRsv_getLsbD, cmdMask, cmdBits, BitVec.getLsbD_or, bit_getLsbD, bitIf_getLsbD]
  simp [h0, h1, hne, hne.symm]

/-- A write of one request bit requests its slot (40 R133). -/
theorem writeCmd_bit {p : Params} (hp : p.Admissible) (x : SlotId) (d : Device) :
    writeCmd (bit (p.cmdTxreq x)) p d = d.request x := by
  obtain ⟨h0, h1, hne⟩ := hp.cmd
  cases x <;> simp only [writeCmd, Params.cmdTxreq, bit_getLsbD] <;> simp [h0, h1, hne, hne.symm, requestIf]

theorem Device.request_slot_same (x : SlotId) (d : Device) :
    (d.request x).slot x = .queued d.staging (d.slot x).pending := by
  cases x <;> rfl

theorem Device.request_slot_ne {x y : SlotId} (h : y ≠ x) (d : Device) : (d.request x).slot y = d.slot y := by
  cases x <;> cases y
  case slot0.slot0 | slot1.slot1 => contradiction
  all_goals rfl

theorem Device.request_req (x y : SlotId) (d : Device) : (d.request x).req y = (d.req y || y == x) := by
  cases x <;> cases y <;> simp [Device.request, Device.req]

/-- A request changes the request bits and the slots alone (10 R41). -/
theorem Device.request_eq (x : SlotId) (d : Device) : d.request x = { d with
    req0 := (d.request x).req0, req1 := (d.request x).req1, slot0 := (d.request x).slot0, slot1 := (d.request x).slot1 } := by
  cases x <;> rfl

/-- Setting entries of a vector, each to the word of its index. -/
theorem foldl_set_getElem (g : Fin 16 → Word) (ks : List (Fin 16)) (v : Vector Word 16) (i : Fin 16) :
    (ks.foldl (fun v k => v.set k.val (g k) k.isLt) v)[i] = if i ∈ ks then g i else v[i] := by
  induction ks generalizing v with
  | nil => simp
  | cons k ks ih =>
    rw [List.foldl_cons, ih]
    by_cases hi : i ∈ ks
    · simp [hi]
    · by_cases hk : i = k
      · subst hk
        simp [hi]
      · have hne : k.val ≠ i.val := fun h => hk (Fin.ext h.symm)
        simp [hi, hk, Vector.getElem_set_ne, hne]

theorem mem_take_finRange (n : Nat) (i : Fin 16) : i ∈ (List.finRange 16).take n ↔ i.val < n := by
  rw [List.mem_take_iff_getElem]
  simp only [List.getElem_finRange, List.length_finRange]
  constructor
  · rintro ⟨j, hj, rfl⟩
    simp only [Fin.val_cast] at *
    omega
  · exact fun h => ⟨i.val, by omega, rfl⟩

/-- The staging registers as stage_frame leaves them (43 R214). -/
theorem stageFrame_owned (f : Frame) (s : State) :
    (stageFrame f s).dev.owned = { s.dev.owned with
      txid := idWord f, txfic := dlcWord f,
      txdat := ((List.finRange 16).take (wordsFor f.length)).foldl (fun v k => v.set k.val (payloadWord f k.val) k.isLt)
        s.dev.txdat } := by
  have hfold : ∀ (ks : List (Fin 16)) (u : State),
      ((ks.map fun k => (k, payloadWord f k.val)).foldl stagePayload u).dev.owned = { u.dev.owned with
        txdat := ks.foldl (fun v k => v.set k.val (payloadWord f k.val) k.isLt) u.dev.txdat } := by
    intro ks
    induction ks with
    | nil => exact fun _ => rfl
    | cons k ks ih =>
      intro u
      rw [List.map_cons, List.foldl_cons, ih, List.foldl_cons, stagePayload, wr_owned]
      simp [regWrite, Device.owned]
  rw [stageFrame, payloadWords, hfold, wr_owned, wr_owned]
  simp [regWrite, Device.owned]

/-- With nothing scheduled, staging a frame changes the staging registers alone. -/
theorem stageFrame_of_nil (f : Frame) {s : State} (h : s.schedule = []) :
    (stageFrame f s).schedule = [] ∧ (stageFrame f s).dev = { s.dev with
      txid := (stageFrame f s).dev.txid, txfic := (stageFrame f s).dev.txfic, txdat := (stageFrame f s).dev.txdat } := by
  refine stagePayload_keeps (P := fun t => t.schedule = [] ∧ t.dev = { s.dev with
    txid := t.dev.txid, txfic := t.dev.txfic, txdat := t.dev.txdat }) (fun t x ht => ?_) (payloadWords f) _ ?_
  · obtain ⟨hsched, hdev⟩ := ht
    refine ⟨by simp [stagePayload, hsched], ?_⟩
    rw [stagePayload, wr_dev, interlude_of_nil hsched, hdev]
    rfl
  · simp [interlude_of_nil, h, regWrite]

/-- transmit's read of CMD, after the queue is stopped (43 R214). -/
def transmitRead (s : State) : Word × State := rd .cmd (emitStep .queueStop (begin .transmit s))

theorem transmitRead_bits {s : State} (hp : s.params.Admissible) :
    (transmitRead s).1.getLsbD s.params.cmdTxreq0 = s.dev.req0
      ∧ (transmitRead s).1.getLsbD s.params.cmdTxreq1 = s.dev.req1 := by
  have h := readCmd_bits hp (interlude (emitStep .queueStop (begin .transmit s))).dev
    ((emitStep .queueStop (begin .transmit s)).fresh 0)
  have hparams : (emitStep .queueStop (begin .transmit s)).params = s.params := by simp [begin]
  rw [interlude_dev_req0, interlude_dev_req1, emitStep_dev, interlude_dev_req0, interlude_dev_req1] at h
  rw [transmitRead, rd_value, hparams]
  exact h

@[simp] theorem transmitRead_params (s : State) : (transmitRead s).2.params = s.params := by simp [transmitRead, begin]

@[simp] theorem transmitRead_attached (s : State) : (transmitRead s).2.attached = s.attached := by
  simp [transmitRead, begin]

@[simp] theorem transmitRead_handle (s : State) : (transmitRead s).2.handle = s.handle := by simp [transmitRead, begin]

@[simp] theorem transmitRead_owned (s : State) : (transmitRead s).2.dev.owned = s.dev.owned := by
  rw [transmitRead, rd_owned, emitStep_owned]
  rfl

theorem transmitRead_of_nil {s : State} (h : s.schedule = []) :
    (transmitRead s).2.schedule = [] ∧ (transmitRead s).2.dev = s.dev
      ∧ (transmitRead s).2.trace = s.trace ++ [.queueStop, .access .read (s.params.off .cmd) (transmitRead s).1] := by
  have hb : (begin .transmit s).schedule = [] := h
  simp only [transmitRead, rd_trace]
  simp [interlude_of_nil, hb, regAfterRead]
  exact ⟨rfl, rfl⟩

/-- The state in which transmit requests the slot: the frame is staged and the echo recorded (43 R214). -/
def staged (f : Frame) (x : SlotId) (s : State) : State :=
  (emitStep (.echoSubmitted x f) (stageFrame f (transmitRead s).2)).updHandle
    fun h => { h with outstanding := h.outstanding ++ [x] }

/-- The state in which transmit ends with slot `x` requested. -/
def submitted (f : Frame) (x : SlotId) (s : State) : State :=
  finish (.slot x) (wr .cmd (bit (s.params.cmdTxreq x)) (staged f x s))

/-- With a request bit free transmit submits the frame to slot 1 if slot 0's bit is set, and to slot 0 otherwise (43 R215). -/
theorem opTransmit_of_free {s : State} (hp : s.params.Admissible) {f : Frame} (hf : wellFormedFrame f = true)
    (hfree : ¬(s.dev.req0 = true ∧ s.dev.req1 = true)) :
    opTransmit f s = submitted f (if s.dev.req0 then .slot1 else .slot0) s := by
  obtain ⟨h0, h1⟩ := transmitRead_bits hp
  have hboth : bothPending s.params (transmitRead s).1 = false := by simpa [bothPending, h0, h1] using hfree
  have hslot : chooseSlot s.params (transmitRead s).1 = if s.dev.req0 then .slot1 else .slot0 := by simp [chooseSlot, h0]
  have heq : opTransmit f s = submit f (chooseSlot s.params (transmitRead s).1) (transmitRead s).2 := by
    rw [opTransmit, if_pos hf]
    exact if_neg (Bool.not_eq_true _ ▸ hboth)
  rw [heq, hslot, submit, transmitRead_params]
  rfl

/-- With both request bits set it answers Busy (43 R214). -/
theorem opTransmit_of_both {s : State} (hp : s.params.Admissible) {f : Frame} (hf : wellFormedFrame f = true)
    (h0 : s.dev.req0 = true) (h1 : s.dev.req1 = true) : opTransmit f s = finish .busy (transmitRead s).2 := by
  obtain ⟨h0', h1'⟩ := transmitRead_bits hp
  have hboth : bothPending s.params (transmitRead s).1 = true := by simp [bothPending, h0', h1', h0, h1]
  rw [opTransmit, if_pos hf]
  exact if_pos hboth

theorem submitted_params (f : Frame) (x : SlotId) (s : State) : (submitted f x s).params = s.params := by
  simp [submitted, finish, staged]

theorem submitted_attached (f : Frame) (x : SlotId) (s : State) : (submitted f x s).attached = s.attached := by
  simp [submitted, finish, staged]

theorem submitted_handle (f : Frame) (x : SlotId) (s : State) :
    (submitted f x s).handle = { s.handle with outstanding := s.handle.outstanding ++ [x] } := by
  simp [submitted, finish, staged]

/-- The last write requests the slot (43 R214). -/
theorem submitted_dev {s : State} (hp : s.params.Admissible) (f : Frame) (x : SlotId) :
    (submitted f x s).dev = (interlude (staged f x s)).dev.request x := by
  rw [← writeCmd_bit hp]
  simp [submitted, finish, staged, regWrite]

theorem staged_owned (f : Frame) (x : SlotId) (s : State) :
    (interlude (staged f x s)).dev.owned = { s.dev.owned with
      txid := idWord f, txfic := dlcWord f,
      txdat := ((List.finRange 16).take (wordsFor f.length)).foldl (fun v k => v.set k.val (payloadWord f k.val) k.isLt)
        s.dev.txdat } := by
  have htxdat : (transmitRead s).2.dev.txdat = s.dev.txdat :=
    (congrArg Device.txdat (transmitRead_owned s) :)
  rw [interlude_owned, staged, State.updHandle_dev, emitStep_owned, stageFrame_owned, transmitRead_owned, htxdat]

theorem staged_of_nil (f : Frame) (x : SlotId) {s : State} (h : s.schedule = []) :
    (staged f x s).schedule = [] ∧ (staged f x s).dev = { s.dev with
      txid := (staged f x s).dev.txid, txfic := (staged f x s).dev.txfic, txdat := (staged f x s).dev.txdat } := by
  obtain ⟨hsched, hdev, -⟩ := transmitRead_of_nil h
  obtain ⟨hsched', hdev'⟩ := stageFrame_of_nil f hsched
  rw [hdev] at hdev'
  simp only [staged, State.updHandle_schedule, State.updHandle_dev, emitStep_schedule, emitStep_dev,
    interlude_of_nil hsched']
  exact ⟨by rw [hsched', List.tail_nil], hdev'⟩

theorem submitted_req {s : State} (hp : s.params.Admissible) (f : Frame) (x y : SlotId) :
    (submitted f x s).dev.req y = (s.dev.req y || y == x) := by
  have ho := staged_owned f x s
  rw [submitted_dev hp, Device.request_req]
  congr 1
  cases y
  · exact (congrArg Device.req0 ho :)
  · exact (congrArg Device.req1 ho :)

/-- Settles O38. -/
theorem transmitStagesAndRequests : Obligations.TransmitStagesAndRequests := by
  intro s f hp hs hf hfree x
  have ho := staged_owned f x s
  have hdev := submitted_dev hp f x
  rw [Device.request_eq] at hdev
  have htxid : (submitted f x s).dev.txid = idWord f := by rw [hdev]; exact congrArg Device.txid ho
  have htxfic : (submitted f x s).dev.txfic = dlcWord f := by rw [hdev]; exact congrArg Device.txfic ho
  have htxdat : (submitted f x s).dev.txdat = ((List.finRange 16).take (wordsFor f.length)).foldl
      (fun v k => v.set k.val (payloadWord f k.val) k.isLt) s.dev.txdat := by rw [hdev]; exact congrArg Device.txdat ho
  have hslot : (submitted f x s).dev.slot x = .queued (interlude (staged f x s)).dev.staging
      ((interlude (staged f x s)).dev.slot x).pending := by rw [submitted_dev hp, Device.request_slot_same]
  refine ⟨submitted f x s, by rw [exec_opTransmit hs, opTransmit_of_free hp hf hfree], rfl, rfl, htxid, htxfic,
    fun i => ?_, ⟨((interlude (staged f x s)).dev.slot x).pending, ?_, fun h => ?_⟩, submitted_req hp f x, ?_, submitted_handle f x s, fun h => ⟨fun y hy => ?_, ?_⟩⟩
  · rw [htxdat, foldl_set_getElem (fun k => payloadWord f k.val)]
    simp only [mem_take_finRange]
  · rw [hslot, hdev]
    rfl
  · obtain ⟨hsched, hnil⟩ := staged_of_nil f x h
    rw [interlude_of_nil hsched, hnil]
    cases x <;> rfl
  · rw [hdev]
    simp [Device.owned] at ho
    simp [Device.SameSettings, ho]
  · obtain ⟨hsched, hnil⟩ := staged_of_nil f x h
    rw [submitted_dev hp, Device.request_slot_ne hy, interlude_of_nil hsched, hnil]
    cases y <;> rfl
  · obtain ⟨hsched, hnil⟩ := staged_of_nil f x h
    rw [hdev, interlude_of_nil hsched, hnil]

/-- With nothing scheduled, writing the payload words adds their writes to the trace. -/
theorem foldl_stagePayload_trace (xs : List (Fin 16 × Word)) {s : State} (h : s.schedule = []) :
    (xs.foldl stagePayload s).trace = s.trace ++ xs.map fun x => .access .write (s.params.off (.txdat x.1)) x.2 := by
  induction xs generalizing s with
  | nil => simp
  | cons x xs ih =>
    rw [List.foldl_cons, ih (by simp [stagePayload, h]), stagePayload, wr_trace, interlude_of_nil h, wr_params]
    simp

theorem stageFrame_trace_of_nil (f : Frame) {s : State} (h : s.schedule = []) :
    (stageFrame f s).trace = s.trace
      ++ [.access .write (s.params.off .txid) (idWord f), .access .write (s.params.off .txfic) (dlcWord f)]
      ++ ((List.finRange 16).take (wordsFor f.length)).map
          fun i => .access .write (s.params.off (.txdat i)) (payloadWord f i.val) := by
  rw [stageFrame, foldl_stagePayload_trace _ (by simp [h])]
  simp [wr_trace, interlude_of_nil, h, payloadWords, List.map_map, Function.comp_def]

/-- Settles O39. -/
theorem transmitEmitsInOrder : Obligations.TransmitEmitsInOrder := by
  intro s t f hp h hs hf hfree hexec x w
  rw [exec_opTransmit hs, opTransmit_of_free hp hf hfree] at hexec
  obtain rfl := Host.Outcome.next.inj hexec
  obtain ⟨hsched, -, htrace⟩ := transmitRead_of_nil h
  obtain ⟨hsched', -⟩ := stageFrame_of_nil f hsched
  obtain ⟨hsched'', -⟩ := staged_of_nil f x h
  have hfinish : (submitted f x s).trace
      = (staged f x s).trace ++ [.access .write ((staged f x s).params.off .cmd) (bit (s.params.cmdTxreq x))] := by
    rw [submitted, finish, State.setResult_trace, State.setCore_trace, wr_trace, interlude_of_nil hsched'']
  have hstaged : (staged f x s).trace = (stageFrame f (transmitRead s).2).trace ++ [.echoSubmitted x f] := by
    rw [staged, State.updHandle_trace, emitStep_trace, interlude_of_nil hsched']
  have hparams : (staged f x s).params = s.params := by simp [staged]
  refine ⟨(transmitRead s).1, ?_⟩
  rw [hfinish, hstaged, stageFrame_trace_of_nil f hsched, htrace, hparams, transmitRead_params, bit]
  simp [w]

/-- Settles O40. -/
theorem transmitTurnedAwayWritesNothing : Obligations.TransmitTurnedAwayWritesNothing := by
  intro s f hp hs
  refine ⟨fun hf => ?_, fun hf h0 h1 => ?_⟩
  · rw [exec_opTransmit hs, opTransmit, if_neg (Bool.not_eq_true _ ▸ hf), refuse_live _ hs]
  · refine ⟨_, (exec_opTransmit hs f).trans (congrArg _ (opTransmit_of_both hp hf h0 h1)), rfl, rfl, transmitRead_handle s,
      sameCoreOwned_iff.mpr (transmitRead_owned s), fun h => ?_⟩
    obtain ⟨-, hdev, htrace⟩ := transmitRead_of_nil h
    exact ⟨hdev, _, htrace⟩

/-- Settles O41: the first transmit finds both bits clear, the second slot 0's set, the third both. -/
theorem twoTransmitsFillBothSlots : Obligations.TwoTransmitsFillBothSlots := by
  intro s f g h hp hs h0 h1 hf hg hh
  -- the first
  have hreq := submitted_req hp f .slot0
  have hexec : exec (.opTransmit f) s = .next (submitted f .slot0 s) := by
    rw [exec_opTransmit hs, opTransmit_of_free hp hf (by simp [h0]), h0]
    rfl
  refine ⟨_, hexec, rfl, ?_⟩
  generalize ht : submitted f .slot0 s = t at hreq
  have htp : t.params.Admissible := by rwa [← ht, submitted_params]
  have hts : t.attached = .live := by rwa [← ht, submitted_attached]
  have ht0 : t.dev.req0 = true := by simpa [Device.req] using hreq .slot0
  have ht1 : t.dev.req1 = false := (hreq .slot1).trans (by rw [Device.req, h1]; rfl)
  -- the second
  have hreq' := submitted_req htp g .slot1
  have hexec' : exec (.opTransmit g) t = .next (submitted g .slot1 t) := by
    rw [exec_opTransmit hts, opTransmit_of_free htp hg (by simp [ht1]), ht0]
    rfl
  refine ⟨_, hexec', rfl, ?_, ?_⟩
  · rw [submitted_handle, ← ht, submitted_handle]
    simp
  generalize hu : submitted g .slot1 t = u at hreq'
  have hup : u.params.Admissible := by rwa [← hu, submitted_params]
  have hus : u.attached = .live := by rwa [← hu, submitted_attached]
  have hu0 : u.dev.req0 = true := by simpa [Device.req, ht0] using hreq' .slot0
  have hu1 : u.dev.req1 = true := by simpa [Device.req] using hreq' .slot1
  -- the third
  exact ⟨_, (exec_opTransmit hus h).trans (congrArg _ (opTransmit_of_both hup hh hu0 hu1)), rfl, transmitRead_handle u⟩

/-! ### Receive -/

theorem receive_owned (s : State) : (receive s).dev.owned = s.dev.owned := by
  have hpop : (popPorts (List.finRange 19) s).2.dev.owned = s.dev.owned :=
    popPorts_keeps (P := fun t => t.dev.owned = s.dev.owned) (fun j t ht => (rd_owned (.rxport j) t).trans ht) _ s rfl
  rw [← hpop, receive, deliver]
  split
  · rw [State.updStats_dev, emitStep_owned, allocStep_owned]
  · rw [State.updStats_dev, allocStep_owned]

/-- A FIFO whose head entry still has the words `e`; none is left of it when `e` is empty (10 R40). -/
def entryThen (e : List Word) (rest : List (List Word)) : List (List Word) := if e = [] then rest else e :: rest

/-- The next read port answers the head entry's next word, and leaves the words after it (44 R223). -/
theorem rd_rxport_of_entry {s : State} {w : Word} {ws : List Word} {rest : List (List Word)}
    (h : (interlude s).dev.rxfifo = (w :: ws) :: rest) (j : Fin 19) :
    (rd (.rxport j) s).1 = w ∧ (rd (.rxport j) s).2.dev.rxfifo = entryThen ws rest := by
  refine ⟨?_, ?_⟩
  · rw [rd_value]
    exact readRxport_of_cons h _
  · rw [rd_dev, regAfterRead, h]
    exact popFifo_cons w ws rest

/-- Reading as many ports as the head entry has words answers the entry and takes it; what arrives meanwhile stays behind
(44 R223). -/
theorem popPorts_entry (js : List (Fin 19)) {e : List Word} {rest : List (List Word)} {s : State}
    (hlen : e.length = js.length) (h : entryThen e rest <+: s.dev.rxfifo) :
    (popPorts js s).1 = e ∧ rest <+: (popPorts js s).2.dev.rxfifo := by
  induction js generalizing e rest s with
  | nil =>
    obtain rfl := List.eq_nil_of_length_eq_zero hlen
    exact ⟨rfl, h⟩
  | cons j js ih =>
    obtain ⟨w, ws, rfl⟩ := List.exists_cons_of_length_eq_add_one hlen
    obtain ⟨more, hmore⟩ := h.trans (interlude_rxfifo s)
    obtain ⟨hw, hfifo⟩ := rd_rxport_of_entry (rest := rest ++ more) hmore.symm j
    obtain ⟨hws, hrest⟩ := ih (e := ws) (rest := rest ++ more) (by simpa using hlen) (by rw [hfifo])
    exact ⟨by rw [popPorts, hw, hws], (List.prefix_append rest more).trans hrest⟩

/-- With nothing scheduled only the FIFO changes, and the trace shows the reads in order (44 R223). -/
theorem popPorts_of_nil (js : List (Fin 19)) {e : List Word} {rest : List (List Word)} {s : State}
    (hlen : e.length = js.length) (h : s.dev.rxfifo = entryThen e rest) (hsched : s.schedule = []) :
    (popPorts js s).2.schedule = [] ∧ (popPorts js s).2.dev = { s.dev with rxfifo := rest }
      ∧ (popPorts js s).2.trace = s.trace
          ++ (js.zip e).map fun x => .access .read (s.params.off (.rxport x.1)) x.2 := by
  induction js generalizing e s with
  | nil =>
    obtain rfl := List.eq_nil_of_length_eq_zero hlen
    refine ⟨hsched, ?_, by simp [popPorts]⟩
    rw [popPorts, ← show s.dev.rxfifo = rest from h]
  | cons j js ih =>
    obtain ⟨w, ws, rfl⟩ := List.exists_cons_of_length_eq_add_one hlen
    have hi := interlude_of_nil hsched
    obtain ⟨hw, hfifo⟩ := rd_rxport_of_entry (rest := rest) (hi ▸ h) j
    obtain ⟨hsched', hdev, htrace⟩ := ih (s := (rd (.rxport j) s).2) (by simpa using hlen) hfifo (by simp [hsched])
    refine ⟨hsched', hdev.trans ?_, htrace.trans ?_⟩
    · rw [rd_dev, hi]
      rfl
    · rw [rd_trace, hi, hw, rd_params]
      simp

/-- The ports in order with the words of an entry of 19 words. -/
theorem finRange_zip {e : List Word} (h : e.length = 19) :
    (List.finRange 19).zip e = (List.finRange 19).map fun j => (j, e.getD j.val 0) := by
  refine List.ext_getElem (by simp [h]) fun i h1 h2 => ?_
  have hi : i < e.length := by simpa [h] using h1
  simp [hi]

/-- receive of a whole head entry delivers the frame it decodes to (44 R224). -/
theorem receive_of_entry {e : List Word} {rest : List (List Word)} {s : State} (h : s.dev.rxfifo = e :: rest)
    (hlen : e.length = 19) :
    receive s = deliver (decodeFrame (e.getD 0 0) (e.getD 1 0) (e.drop 3)) (popPorts (List.finRange 19) s).2
      ∧ rest <+: (popPorts (List.finRange 19) s).2.dev.rxfifo := by
  have hne : e ≠ [] := List.ne_nil_of_length_pos (by omega)
  obtain ⟨hwords, hrest⟩ := popPorts_entry (List.finRange 19) (by simpa using hlen)
    (show entryThen e rest <+: s.dev.rxfifo by rw [entryThen, if_neg hne, h])
  exact ⟨by rw [receive, hwords]; rfl, hrest⟩

/-- A delivery leaves what is in the FIFO at its head (44 R224). -/
theorem deliver_rxfifo (f : Frame) (s : State) : s.dev.rxfifo <+: (deliver f s).dev.rxfifo := by
  have halloc : s.dev.rxfifo <+: (allocStep s).dev.rxfifo := by
    rw [allocStep_dev]
    exact interlude_rxfifo s
  unfold deliver
  split
  · refine halloc.trans ?_
    rw [State.updStats_dev, emitStep_dev]
    exact interlude_rxfifo _
  · exact halloc

theorem deliver_of_nil (f : Frame) {s : State} (h : s.schedule = []) :
    (deliver f s).schedule = [] ∧ (deliver f s).dev = s.dev
      ∧ (deliver f s).trace = s.trace ++ [.alloc (nextAlloc s)] ++ (if nextAlloc s then [.deliverFrame f] else []) := by
  have hi := interlude_of_nil h
  have hi' : interlude (allocStep s) = allocStep s := interlude_of_nil (by simp [h])
  unfold deliver
  split
  · next ha => simp [h, hi, hi', ha]
  · next ha => simp [h, hi, ha]

/-- Undisturbed, receive of a whole head entry changes the FIFO alone (44 R223, R224). -/
theorem receive_of_nil {e : List Word} {rest : List (List Word)} {s : State} (h : s.dev.rxfifo = e :: rest)
    (hlen : e.length = 19) (hsched : s.schedule = []) :
    let f := decodeFrame (e.getD 0 0) (e.getD 1 0) (e.drop 3)
    (receive s).schedule = [] ∧ (receive s).dev = { s.dev with rxfifo := rest }
      ∧ (receive s).trace = s.trace
          ++ (List.finRange 19).map (fun j => .access .read (s.params.off (.rxport j)) (e.getD j.val 0))
          ++ [.alloc (nextAlloc (popPorts (List.finRange 19) s).2)]
          ++ (if nextAlloc (popPorts (List.finRange 19) s).2 then [.deliverFrame f] else []) := by
  have hne : e ≠ [] := List.ne_nil_of_length_pos (by omega)
  obtain ⟨hsched', hdev, htrace⟩ := popPorts_of_nil (List.finRange 19) (e := e) (rest := rest) (by simpa using hlen)
    (by rw [entryThen, if_neg hne, h]) hsched
  obtain ⟨hsched'', hdev', htrace'⟩ :=
    deliver_of_nil (decodeFrame (e.getD 0 0) (e.getD 1 0) (e.drop 3)) hsched'
  obtain ⟨hreceive, -⟩ := receive_of_entry h hlen
  rw [hreceive]
  refine ⟨hsched'', hdev'.trans hdev, ?_⟩
  rw [htrace', htrace, finRange_zip hlen, List.map_map]
  rfl

/-- What alloc answers is the host's next answer, where it has one (log 5). -/
theorem nextAlloc_of_head {s : State} {b : Bool} (h : s.answers.alloc.head? = some b) : nextAlloc s = b := by
  unfold nextAlloc
  cases ha : s.answers.alloc with
  | nil => simp [ha] at h
  | cons c cs => simpa [ha] using h

/-- Settles O44. -/
theorem receiveDeliversTheHeadEntry : Obligations.ReceiveDeliversTheHeadEntry := by
  intro s hs
  refine ⟨⟨_, exec_opReceive hs, rfl, sameCoreOwned_iff.mpr (receive_owned s), receive_handle s⟩,
    fun e rest h hlen => ⟨_, exec_opReceive hs, ?_⟩⟩
  obtain ⟨hreceive, hrest⟩ := receive_of_entry h hlen
  intro f
  refine ⟨?_, nextAlloc (popPorts (List.finRange 19) s).2, fun b hb => nextAlloc_of_head (by simpa using hb), ?_,
    fun hsched => ?_⟩
  · rw [State.setResult_dev, hreceive]
    exact hrest.trans (deliver_rxfifo _ _)
  · rw [State.setResult_handle, hreceive, deliver_handle, popPorts_handle]
    rfl
  · obtain ⟨-, hdev, htrace⟩ := receive_of_nil h hlen hsched
    exact ⟨hdev, htrace⟩

end Sys2Proof.Machine
end

