-- ==== Sys2Proof/Proofs/Interrupt.lean ====
section
/-! PROOF. The interrupt handler (spec/45_interrupt.md R230 to R248). -/

namespace Sys2Proof.Machine

/-! ### The frame of the handler -/

/-- The state before the acknowledge: the flags are handled and the diagnostic frame is delivered (45 R245). -/
def isrHandled (s : State) : IsrState := deliverEf (isrSteps s.params (isrEntry (begin .isr s)))

theorem opIsr_eq (s : State) : opIsr s = finish .ok (acknowledge (isrHandled s)) := rfl

theorem deliverEf_fst (x : IsrState) : (deliverEf x).1 = x.1 := by
  unfold deliverEf
  split <;> rfl

/-- The status the handler works with is the one it read (45 R230). -/
theorem isrHandled_status (s : State) : (isrHandled s).1.status = (rd .int (begin .isr s)).1 := by
  rw [isrHandled, deliverEf_fst, isrSteps_status]
  rfl

theorem isrHandled_params (s : State) : (isrHandled s).2.params = s.params := by simp [isrHandled, isrEntry, begin]

/-- The acknowledge clears the flags of the status (45 R246). -/
theorem opIsr_intFlag (s : State) {n : Nat} (hn : n < 15) :
    (opIsr s).dev.intFlag n = ((interlude (isrHandled s).2).dev.intFlag n && !(rd .int (begin .isr s)).1.getLsbD n) := by
  have h : (opIsr s).dev = writeInt (isrHandled s).1.status (isrHandled s).2.params (interlude (isrHandled s).2).dev :=
    wr_dev .int _ _
  rw [h, writeInt_intFlag _ _ _ hn, isrHandled_status]

/-- The bus engine makes no access (46 R268). -/
theorem busTrace_accesses (c : TxPick) (d : Device) (e : BusEvent) : accessesOf (busTrace c d e) = [] := by
  cases e with
  | txComplete x =>
    simp only [busTrace]
    split <;> rfl
  | _ => rfl

/-- The trace of `t` is that of `s` and events `es` with no write of INT among them (45 R246). -/
def State.AddsNoAck (s t : State) : Prop :=
  t.params = s.params ∧ ∃ es, t.trace = s.trace ++ es
    ∧ (s.params.Admissible → (AccessDir.write, s.params.off .int) ∉ accessesOf es)

theorem State.AddsNoAck.refl (s : State) : s.AddsNoAck s :=
  ⟨rfl, [], (List.append_nil _).symm, fun _ => List.not_mem_nil⟩

theorem State.AddsNoAck.append {s t u : State} (h : s.AddsNoAck t) (hp : u.params = t.params) {fs : List Event}
    (ht : u.trace = t.trace ++ fs) (hfs : s.params.Admissible → (AccessDir.write, s.params.off .int) ∉ accessesOf fs) :
    s.AddsNoAck u := by
  obtain ⟨hparams, es, htrace, hes⟩ := h
  refine ⟨hp.trans hparams, es ++ fs, by rw [ht, htrace, List.append_assoc], fun ha => ?_⟩
  rw [accessesOf_append, List.mem_append, not_or]
  exact ⟨hes ha, hfs ha⟩

theorem State.AddsNoAck.interlude {s t : State} (h : s.AddsNoAck t) : s.AddsNoAck (interlude t) := by
  refine interlude_keeps (P := s.AddsNoAck) (fun u e hu => ?_) (fun _ _ => id) t h
  cases hb : busEnabled u.dev e
  · rwa [busStep_of_disabled hb]
  · refine hu.append (busStep_params u e) (fs := busTrace u.nextPick u.dev e) (by rw [busStep_of_enabled hb]) fun _ => ?_
    rw [busTrace_accesses]
    exact List.not_mem_nil

/-- Before the acknowledge the handler makes no write of INT (45 R246). -/
theorem keptBySteps_addsNoAck (s : State) : KeptBySteps s.AddsNoAck where
  coreStep := fun t ht => ht.interlude
  read := fun r t _ ht => ht.append rfl rfl fun _ => by simp [accessesOf]
  pop := fun j t ht => ht.append rfl rfl fun _ => by simp [accessesOf]
  write := fun r v t hr ht => ht.append rfl rfl fun hp => by
    have hne : s.params.off r ≠ s.params.off .int := by
      obtain ⟨-, -, hoff⟩ := hp.off r
      obtain h | ⟨-, h⟩ | h := hoff .int
      · exact absurd h hr
      · cases h
      · exact h
    rw [ht.1]
    simpa [accessesOf] using hne.symm
  emit := fun e t he ht => ht.append rfl rfl fun _ => by rw [he.1]; exact List.not_mem_nil
  answers := fun _ _ => id
  draws := fun _ _ => id
  handle := fun _ _ => id

theorem isrHandled_addsNoAck (s : State) :
    (isrEntry (begin .isr s)).2.AddsNoAck (interlude (isrHandled s).2) := by
  have h := keptBySteps_addsNoAck (isrEntry (begin .isr s)).2
  refine (h.deliverEf (h.isrSteps (fun t ht => ?_) (fun t ht => ?_) s.params (.refl _))).interlude
  · exact ht.append rfl rfl fun _ => by simp [accessesOf]
  · exact ht.append rfl rfl fun _ => by simp [accessesOf]

/-- Before a core step the trace grows by events that are no access (46 R268). -/
theorem interlude_trace (s : State) : ∃ es, (interlude s).trace = s.trace ++ es ∧ accessesOf es = [] := by
  refine interlude_keeps (P := fun t => ∃ es, t.trace = s.trace ++ es ∧ accessesOf es = []) (fun u e hu => ?_)
    (fun _ _ => id) s ⟨[], (List.append_nil _).symm, rfl⟩
  cases hb : busEnabled u.dev e
  · rwa [busStep_of_disabled hb]
  · obtain ⟨es, htrace, hes⟩ := hu
    refine ⟨es ++ busTrace u.nextPick u.dev e, ?_, by rw [accessesOf_append, hes, busTrace_accesses]; rfl⟩
    rw [busStep_of_enabled hb, htrace, List.append_assoc]

/-- The entry's reads: INT, then the two counters into the cache (45 R230, R231). -/
theorem isrEntry_trace (s : State) : ∃ pre gap1 gap2,
    (isrEntry s).2.trace = s.trace ++ pre ++ [.access .read (s.params.off .int) (rd .int s).1]
        ++ gap1 ++ [.access .read (s.params.off .rxerrcnt) (isrEntry s).2.handle.rxerr]
        ++ gap2 ++ [.access .read (s.params.off .txerrcnt) (isrEntry s).2.handle.txerr]
      ∧ accessesOf pre = [] ∧ accessesOf gap1 = [] ∧ accessesOf gap2 = [] := by
  obtain ⟨pre, hpre, hpre'⟩ := interlude_trace s
  obtain ⟨gap1, hgap1, hgap1'⟩ := interlude_trace (rd .int s).2
  obtain ⟨gap2, hgap2, hgap2'⟩ := interlude_trace (rd .rxerrcnt (rd .int s).2).2
  refine ⟨pre, gap1, gap2, ?_, hpre', hgap1', hgap2'⟩
  simp only [isrEntry, State.updHandle_trace, State.updHandle_handle, rd_handle, rd_trace, interlude_updHandle,
    State.updHandle_params, rd_params, hgap2, hgap1, hpre]

/-- Undisturbed, the entry leaves the device and caches the two counters (45 R230, R231). -/
theorem isrEntry_of_nil {s : State} (h : s.schedule = []) :
    (isrEntry s).2.schedule = [] ∧ (isrEntry s).2.dev = s.dev
      ∧ (isrEntry s).2.handle = { s.handle with rxerr := s.dev.rxerrcnt, txerr := s.dev.txerrcnt } := by
  simp [isrEntry, rd_value, interlude_of_nil, h, regAfterRead, regValue]

/-- The acknowledge writes the status read at entry (45 R246). -/
theorem opIsr_trace (s : State) :
    (opIsr s).trace = (interlude (isrHandled s).2).trace
      ++ [.access .write (s.params.off .int) (rd .int (begin .isr s)).1] := by
  rw [opIsr_eq, finish, State.setResult_trace, State.setCore_trace, acknowledge, wr_trace, isrHandled_params,
    isrHandled_status]

theorem opIsr_attached (s : State) : (opIsr s).attached = s.attached := by
  simp [opIsr, finish, acknowledge, isrEntry, begin]

theorem opIsr_refused (s : State) : (opIsr s).refused = s.refused := by
  simp [opIsr, finish, acknowledge, isrEntry, begin]

/-- Settles O45: the accesses of the entry, the steps between without a write of INT, and the acknowledge. -/
theorem isrAcknowledgesWhatItRead : Obligations.IsrAcknowledgesWhatItRead := by
  intro s hs
  obtain ⟨hparams, hfault, -⟩ := exec_marks (exec_opIsr hs)
  obtain ⟨hclock, htx, hrx, hconfig, -⟩ := Handle.isrKept_eq_iff.mp (opIsr_isrKept s)
  obtain ⟨pre, gap1, gap2, hentry, hpre, hgap1, hgap2⟩ := isrEntry_trace (begin .isr s)
  obtain ⟨-, mid, hmid, hnoack⟩ := isrHandled_addsNoAck s
  have hp : (isrEntry (begin .isr s)).2.params = s.params := by simp [isrEntry, begin]
  refine ⟨opIsr s, exec_opIsr hs, rfl, rfl,
    ⟨(rd .int (begin .isr s)).1, pre, gap1, gap2, mid, ?_, hpre, hgap1, hgap2, hp ▸ hnoack, fun n hn hst => ?_⟩,
    fun h => ?_, ?_, ?_, (opIsr_attached s).trans hs, hfault, opIsr_refused s, hparams⟩
  · rw [opIsr_trace, hmid, hentry, hrx, htx]
    rfl
  · rw [opIsr_intFlag s hn, hst, Bool.not_true, Bool.and_false]
  · obtain ⟨-, -, hhandle⟩ := isrEntry_of_nil (s := begin .isr s) h
    rw [hrx, htx, hhandle]
    exact ⟨rfl, rfl⟩
  · rw [hclock]
    simp [isrEntry, begin]
  · rw [hconfig]
    simp [isrEntry, begin]


/-! ### Undisturbed: the flags and the registers -/

/-- The status read has the flags in bits 14:0 (40 R136). -/
theorem status_getLsbD {s : State} (h : s.schedule = []) {n : Nat} (hn : n < 15) :
    (rd .int (begin .isr s)).1.getLsbD n = s.dev.intFlag n := by
  have hi : interlude (begin .isr s) = begin .isr s := interlude_of_nil h
  rw [rd_value, hi, regValue, readInt, withRsv_getLsbD, intMask_getLsbD]
  have h32 : n < 32 := by omega
  simp only [hn, h32, decide_true, if_true, BitVec.getLsbD_setWidth, Bool.true_and]
  rfl

/-- Nothing is scheduled, and since a state with device `d` and `n` pulses the steps read and counted only. -/
def State.Unchanged (d : Device) (n : Nat) (t : State) : Prop :=
  t.schedule = [] ∧ t.dev = d ∧ pulsesOf t.trace = n

theorem coreStep_of_nil {s : State} (h : s.schedule = []) : coreStep s = s.setCore s.core.advance := by
  rw [coreStep, interlude_of_nil h]

theorem keptByReads_unchanged (d : Device) (n : Nat) : KeptByReads (State.Unchanged d n) where
  coreStep := fun s hs => by rw [coreStep_of_nil hs.1]; exact hs
  read := fun r s hr hs => by
    refine ⟨hs.1, (regAfterRead_of_not_rxport hr s.dev).trans hs.2.1, ?_⟩
    rw [accessRead, State.emit_trace, pulsesOf_append]
    exact hs.2.2
  emit := fun e s he hs => ⟨hs.1, hs.2.1, by rw [State.emit_trace, pulsesOf_append, he.2.1]; exact hs.2.2⟩
  answers := fun _ _ => id
  draws := fun _ _ => id
  handle := fun _ _ => id

theorem unchanged_notify {d : Device} {n : Nat} (s : State) (hs : State.Unchanged d n s) :
    State.Unchanged d n (s.emit .notifyBusOff) := by
  refine ⟨hs.1, hs.2.1, ?_⟩
  rw [State.emit_trace, pulsesOf_append]
  exact hs.2.2

/-- After the recovery the device stays as it is until the acknowledge, and the reset is pulsed no more. -/
theorem isrAfter_unchanged (p : Params) {x : IsrState} (h : x.2.schedule = []) :
    State.Unchanged x.2.dev (pulsesOf x.2.trace) (isrAfter p x).2 :=
  (keptByReads_unchanged _ _).isrAfter unchanged_notify p ⟨h, rfl, rfl⟩

theorem deliverEf_unchanged {x : IsrState} (h : x.2.schedule = []) :
    State.Unchanged x.2.dev (pulsesOf x.2.trace) (deliverEf x).2 :=
  (keptByReads_unchanged _ _).deliverEf ⟨h, rfl, rfl⟩

/-- Nothing is scheduled, and since a state with device `d` and `n` pulses only the FIFO and the request bits changed. -/
def State.OnlyPaths (d : Device) (n : Nat) (t : State) : Prop :=
  t.schedule = [] ∧ t.dev = { d with rxfifo := t.dev.rxfifo, req0 := t.dev.req0, req1 := t.dev.req1 }
    ∧ pulsesOf t.trace = n

/-- A write of 0 to CMD requests nothing (40 R133). -/
theorem writeCmd_zero (p : Params) (d : Device) :
    writeCmd 0 p d = { d with
      req0 := d.req0 && p.cmdZeroWrite == .noEffect, req1 := d.req1 && p.cmdZeroWrite == .noEffect } := by
  cases h : p.cmdZeroWrite <;> simp [writeCmd, h]

/-- Before the recovery the handler changes the FIFO and the request bits of the device alone (45 R234, R235). -/
theorem isrBefore_onlyPaths (p : Params) {x : IsrState} (h : x.2.schedule = []) :
    State.OnlyPaths x.2.dev (pulsesOf x.2.trace) (isrBefore p x).2 := by
  have hkept : KeptByReads (State.OnlyPaths x.2.dev (pulsesOf x.2.trace)) := {
    coreStep := fun s hs => by rw [coreStep_of_nil hs.1]; exact hs
    read := fun r s hr hs => by
      have hdev : (accessRead r s).2.dev = s.dev := regAfterRead_of_not_rxport hr s.dev
      refine ⟨hs.1, by rw [hdev]; exact hs.2.1, ?_⟩
      rw [accessRead, State.emit_trace, pulsesOf_append]
      exact hs.2.2
    emit := fun e s he hs => ⟨hs.1, hs.2.1, by rw [State.emit_trace, pulsesOf_append, he.2.1]; exact hs.2.2⟩
    answers := fun _ _ => id
    draws := fun _ _ => id
    handle := fun _ _ => id }
  refine hkept.isrBefore (fun s hs => ?_) (fun j s hs => ?_) p ⟨h, rfl, rfl⟩
  · obtain ⟨hsched, hdev, hpulses⟩ := hs
    refine ⟨hsched, ?_, by rw [accessWrite, State.emit_trace, pulsesOf_append]; exact hpulses⟩
    have hw : (accessWrite .cmd 0 s).dev = writeCmd 0 s.params s.dev := rfl
    rw [hw, writeCmd_zero, hdev]
  · obtain ⟨hsched, hdev, hpulses⟩ := hs
    refine ⟨hsched, ?_, by rw [accessRead, State.emit_trace, pulsesOf_append]; exact hpulses⟩
    have hr : (accessRead (.rxport j) s).2.dev = { s.dev with rxfifo := popFifo s.dev.rxfifo } := rfl
    rw [hr, hdev]

/-- The recovery leaves a quiet device in normal mode with only WORK set, after one pulse (45 R236, 70 R344). -/
theorem stepRxOverrun_of_nil {x : IsrState} (hp : x.2.params.Admissible) (h : x.2.schedule = []) :
    (stepRxOverrun x).2.QuietRun ∧ (stepRxOverrun x).2.dev.mode = ⟨true, false, false, false, false⟩
      ∧ (stepRxOverrun x).2.dev.tdcEn = false
      ∧ pulsesOf (stepRxOverrun x).2.trace = pulsesOf x.2.trace + 1 := by
  obtain ⟨hsched, -, hpulses⟩ := (keptByReads_unchanged x.2.dev (pulsesOf x.2.trace)).ensureEf ⟨h, rfl, rfl⟩
  -- the state in which the recovery begins
  have hstep : (stepRxOverrun x).2 = enterNormal (enterReset ((ensureEf x).2.updStats fun t =>
      { t with rxOverErrors := t.rxOverErrors + 1, rxErrors := t.rxErrors + 1 })) := rfl
  generalize hu : (ensureEf x).2.updStats (fun t =>
      { t with rxOverErrors := t.rxOverErrors + 1, rxErrors := t.rxErrors + 1 }) = u at hstep
  have husched : u.schedule = [] := by rw [← hu]; exact hsched
  have hup : (enterReset u).params.Admissible := by simpa [← hu] using hp
  have ho := enterNormal_owned hup
  rw [enterReset_owned] at ho
  obtain ⟨-, -, hpulse, -⟩ := ((State.Made.refl husched).enterReset).enterNormal
  rw [hstep]
  refine ⟨(enterReset_quietRun husched).setbits _, (congrArg Device.mode ho :), (congrArg Device.tdcEn ho :), ?_⟩
  rw [hpulse, ← hu, State.updStats_trace, hpulses]


theorem isrEntry_params (s : State) : (isrEntry s).2.params = s.params := by simp [isrEntry]

theorem isrEntry_pulses {s : State} (h : s.schedule = []) : pulsesOf (isrEntry s).2.trace = pulsesOf s.trace := by
  obtain ⟨-, -, hpulses⟩ := (keptByReads_unchanged s.dev (pulsesOf s.trace)).isrEntry ⟨h, rfl, rfl⟩
  exact hpulses

theorem isrBefore_fst (p : Params) (x : IsrState) : (isrBefore p x).1 = x.1 := by
  unfold isrBefore whenFlag
  split <;> split <;> rfl

theorem isrBefore_params (p : Params) (x : IsrState) : (isrBefore p x).2.params = x.2.params := by
  unfold isrBefore whenFlag
  split <;> split <;> simp

/-- Undisturbed, without an overrun the handler changes of the device the FIFO and the request bits before the acknowledge. -/
theorem isrHandled_of_no_overrun {s : State} (hp : s.params.Admissible) (h : s.schedule = [])
    (hov : s.dev.intFlag s.params.intRxBufOv = false) :
    State.OnlyPaths s.dev (pulsesOf s.trace) (isrHandled s).2 := by
  obtain ⟨hsched, hdev, -⟩ := isrEntry_of_nil (s := begin .isr s) h
  obtain ⟨-, -, hint, -⟩ := hp.int_lt
  have hbefore := isrBefore_onlyPaths s.params hsched
  rw [hdev, isrEntry_pulses (s := begin .isr s) h] at hbefore
  have hclear : (isrBefore s.params (isrEntry (begin .isr s))).1.status.getLsbD s.params.intRxBufOv = false := by
    rw [isrBefore_fst]
    exact (status_getLsbD h hint).trans hov
  have hsteps : isrSteps s.params (isrEntry (begin .isr s))
      = isrAfter s.params (isrBefore s.params (isrEntry (begin .isr s))) := by
    rw [isrSteps_eq, whenFlag_of_clear hclear]
  have hafter := isrAfter_unchanged s.params hbefore.1
  have hef := deliverEf_unchanged hafter.1
  rw [isrHandled, hsteps]
  obtain ⟨hsched', hdev', hpulses'⟩ := hef
  obtain ⟨-, hdev'', hpulses''⟩ := hafter
  refine ⟨hsched', ?_, hpulses'.trans (hpulses''.trans hbefore.2.2)⟩
  rw [hdev', hdev'']
  exact hbefore.2.1

/-- Undisturbed, after an overrun it leaves a quiet device in normal mode, with one pulse more (45 R236). -/
theorem isrHandled_of_overrun {s : State} (hp : s.params.Admissible) (h : s.schedule = [])
    (hov : s.dev.intFlag s.params.intRxBufOv = true) :
    (isrHandled s).2.QuietRun ∧ (isrHandled s).2.dev.mode = ⟨true, false, false, false, false⟩
      ∧ (isrHandled s).2.dev.tdcEn = false ∧ pulsesOf (isrHandled s).2.trace = pulsesOf s.trace + 1 := by
  obtain ⟨hsched, -, -⟩ := isrEntry_of_nil (s := begin .isr s) h
  obtain ⟨-, -, hint, -⟩ := hp.int_lt
  obtain ⟨hsched', -, hpulses'⟩ := isrBefore_onlyPaths s.params hsched
  have hset : (isrBefore s.params (isrEntry (begin .isr s))).1.status.getLsbD s.params.intRxBufOv = true := by
    rw [isrBefore_fst]
    exact (status_getLsbD h hint).trans hov
  have hparams : (isrBefore s.params (isrEntry (begin .isr s))).2.params.Admissible := by
    rw [isrBefore_params, isrEntry_params]
    exact hp
  obtain ⟨hquiet, hmode, htdc, hpulse⟩ := stepRxOverrun_of_nil hparams hsched'
  have hsteps : isrSteps s.params (isrEntry (begin .isr s))
      = isrAfter s.params (stepRxOverrun (isrBefore s.params (isrEntry (begin .isr s)))) := by
    rw [isrSteps_eq, whenFlag_of_set hset]
  obtain ⟨hsched2, hdev2, hpulses2⟩ := isrAfter_unchanged s.params hquiet.1
  obtain ⟨hsched3, hdev3, hpulses3⟩ := deliverEf_unchanged hsched2
  rw [isrHandled, hsteps]
  refine ⟨⟨hsched3, ?_⟩, ?_, ?_, ?_⟩
  · rw [hdev3, hdev2]
    exact hquiet.2
  · rw [hdev3, hdev2]
    exact hmode
  · rw [hdev3, hdev2]
    exact htdc
  · rw [hpulses3, hpulses2, hpulse, hpulses', isrEntry_pulses (s := begin .isr s) h]
    rfl

theorem isrHandled_schedule {s : State} (hp : s.params.Admissible) (h : s.schedule = []) :
    (isrHandled s).2.schedule = [] := by
  cases hov : s.dev.intFlag s.params.intRxBufOv
  · exact (isrHandled_of_no_overrun hp h hov).1
  · exact (isrHandled_of_overrun hp h hov).1.1

/-- Undisturbed, no flag is set when the handler ends: all that were set are in the status (45 R246). -/
theorem opIsr_int {s : State} (hp : s.params.Admissible) (h : s.schedule = []) : (opIsr s).dev.int = 0#15 := by
  apply BitVec.eq_of_getLsbD_eq
  intro n hn
  rw [BitVec.getLsbD_zero]
  change (opIsr s).dev.intFlag n = false
  rw [opIsr_intFlag s hn, status_getLsbD h hn, interlude_of_nil (isrHandled_schedule hp h)]
  cases hov : s.dev.intFlag s.params.intRxBufOv
  · obtain ⟨-, hdev, -⟩ := isrHandled_of_no_overrun hp h hov
    rw [hdev]
    exact Bool.and_not_self _
  · obtain ⟨⟨-, hint, -⟩, -⟩ := isrHandled_of_overrun hp h hov
    rw [Device.intFlag, hint, BitVec.getLsbD_zero, Bool.false_and]

/-- Undisturbed, the acknowledge clears the flags, and ERRCODE with BUS_ERR (45 R246, 70 R346). -/
theorem opIsr_dev {s : State} (hp : s.params.Admissible) (h : s.schedule = []) :
    (opIsr s).dev = { (isrHandled s).2.dev with
      int := 0#15, errcodeValid := (isrHandled s).2.dev.errcodeValid && !s.dev.intFlag s.params.intBusErr } := by
  obtain ⟨-, -, -, -, hlt, -⟩ := hp.int_lt
  have hdev : (opIsr s).dev = writeInt (isrHandled s).1.status (isrHandled s).2.params (isrHandled s).2.dev := by
    rw [opIsr_eq, finish, State.setResult_dev, State.setCore_dev, acknowledge, wr_dev,
      interlude_of_nil (isrHandled_schedule hp h)]
    rfl
  have hint := opIsr_int hp h
  rw [hdev] at hint ⊢
  rw [← hint, writeInt, isrHandled_status, isrHandled_params, status_getLsbD h hlt]
  rfl

theorem opIsr_pulses {s : State} (hp : s.params.Admissible) (h : s.schedule = []) :
    pulsesOf (opIsr s).trace = pulsesOf (isrHandled s).2.trace := by
  rw [opIsr_trace, interlude_of_nil (isrHandled_schedule hp h), pulsesOf_append]
  rfl


/-! ### What the steps write of the handle -/

/-- A flag step leaves of the handle what its step leaves, its flag set or not (45 R232). -/
theorem whenFlag_handle {α : Type} {π : Handle → α} {step : IsrState → IsrState} (h : ∀ x, π (step x).2.handle = π x.2.handle) (n : Nat) (x : IsrState) :
    π (whenFlag n step x).2.handle = π x.2.handle := by
  unfold whenFlag
  split
  · exact h x
  · rfl

theorem stepErrorWarning_handle (x : IsrState) : (stepErrorWarning x).2.handle = x.2.handle := by
  simp [stepErrorWarning]

section
variable {α : Type} {π : Handle → α} (hstats : ∀ h st, π { h with stats := st } = π h)
include hstats

theorem ensureEf_handle (x : IsrState) : π (ensureEf x).2.handle = π x.2.handle := by
  obtain ⟨-, -, -, h | h⟩ := ensureEf_spec x
  · rw [h]
  · rw [h, hstats]

theorem stepBusError_handle (x : IsrState) : π (stepBusError x).2.handle = π x.2.handle := by
  refine (ensureEf_handle hstats (x.1, _)).trans ?_
  rw [rd_handle]
  exact hstats _ _

theorem stepArbitrationLost_handle (x : IsrState) : π (stepArbitrationLost x).2.handle = π x.2.handle := by
  refine (ensureEf_handle hstats (x.1, _)).trans ?_
  rw [rd_handle]
  exact hstats _ _

theorem isrTargets_handle (p : Params) (x : IsrState) : π (isrTargets p x).2.handle = π x.2.handle := by
  exact (whenFlag_handle (π := π) (step := stepErrorPassive) (fun _ => rfl) _ _).trans <|
    (whenFlag_handle (stepBusError_handle hstats) _ _).trans <|
    whenFlag_handle (fun x => congrArg π (stepErrorWarning_handle x)) _ _

/-- Up to the state update the handler's steps write only the statistics, besides the echo of a sent frame and the mode of a
recovery (45 R232). -/
theorem isrAfter_handle (hbus : ∀ h b, π { h with busState := b } = π h) (p : Params) (x : IsrState) :
    π (isrAfter p x).2.handle = π x.2.handle := by
  have update (x : IsrState) : π (stateUpdate x).2.handle = π x.2.handle := by
    have hattr := (ensureEf_handle hstats (x.1, x.2.updHandle fun h => { h with busState := x.1.target })).trans (hbus _ _)
    unfold stateUpdate notifyIfBusOff
    split
    · split
      · rw [emitStep_handle]
        exact hattr
      · exact hattr
    · rfl
  rw [isrAfter, whenFlag_handle (stepArbitrationLost_handle hstats), update, isrTargets_handle hstats]

end

/-- A sent frame is counted, with the bytes TXFIC tells, and its echo is no longer outstanding (45 R234). -/
theorem stepTxFinish_handle (x : IsrState) : (stepTxFinish x).2.handle = { x.2.handle with
    outstanding := x.2.handle.outstanding.tail,
    stats := { x.2.handle.stats with
      txBytes := x.2.handle.stats.txBytes + countedBytes (rd .txfic x.2).1,
      txPackets := x.2.handle.stats.txPackets + 1 } } := by
  simp [stepTxFinish]

theorem isrBefore_handle {α : Type} {π : Handle → α} (hstats : ∀ h st, π { h with stats := st } = π h)
    (hout : ∀ h o, π { h with outstanding := o } = π h) (p : Params) (x : IsrState) :
    π (isrBefore p x).2.handle = π x.2.handle := by
  have sent (x : IsrState) : π (stepTxFinish x).2.handle = π x.2.handle := by
    rw [stepTxFinish_handle]
    exact (hstats { x.2.handle with outstanding := x.2.handle.outstanding.tail } _).trans (hout _ _)
  have received (x : IsrState) : π (stepRxFinish x).2.handle = π x.2.handle :=
    (congrArg π (receive_handle x.2)).trans (hstats _ _)
  exact (whenFlag_handle received _ _).trans (whenFlag_handle sent _ _)

/-- Without an overrun the handler leaves the mode, and with one it is normal (45 R236). -/
theorem opIsr_mode {s : State} (hp : s.params.Admissible) (h : s.schedule = []) :
    (opIsr s).handle.mode = if s.dev.intFlag s.params.intRxBufOv then .normal else s.handle.mode := by
  obtain ⟨-, -, hint, -⟩ := hp.int_lt
  have hbefore : (isrBefore s.params (isrEntry (begin .isr s))).2.handle.mode = s.handle.mode := by
    rw [isrBefore_handle (π := Handle.mode) (fun _ _ => rfl) (fun _ _ => rfl)]
    simp [isrEntry, begin]
  have hbit : (isrBefore s.params (isrEntry (begin .isr s))).1.status.getLsbD s.params.intRxBufOv
      = s.dev.intFlag s.params.intRxBufOv := by
    rw [isrBefore_fst]
    exact status_getLsbD h hint
  have hhandled : (opIsr s).handle.mode = (isrSteps s.params (isrEntry (begin .isr s))).2.handle.mode := by
    simp [opIsr, finish, acknowledge, deliverEf_handle]
  rw [hhandled, isrSteps_eq, isrAfter_handle (π := Handle.mode) (fun _ _ => rfl) (fun _ _ => rfl), whenFlag, hbit]
  split
  · rw [stepRxOverrun_handle]
  · exact hbefore

/-- Settles O49. -/
theorem isrRecoversExactlyOncePerOverrun : Obligations.IsrRecoversExactlyOncePerOverrun := by
  intro s hp hs h
  have hdev := opIsr_dev hp h
  have hmode := opIsr_mode hp h
  refine ⟨opIsr s, exec_opIsr hs, ?_, opIsr_int hp h, fun hov => ?_, fun hov => ?_⟩
  · rw [opIsr_pulses hp h]
    cases hov : s.dev.intFlag s.params.intRxBufOv
    · exact (isrHandled_of_no_overrun hp h hov).2.2
    · exact (isrHandled_of_overrun hp h hov).2.2.2
  · obtain ⟨⟨-, hquiet⟩, hwork, htdc, -⟩ := isrHandled_of_overrun hp h hov
    rw [hdev]
    refine ⟨hwork, ?_, htdc, hmode.trans (if_pos hov)⟩
    obtain ⟨-, hlevels⟩ := hquiet
    simp only [Device.Quiet] at hlevels ⊢
    simp [hlevels]
  · obtain ⟨-, hpaths, -⟩ := isrHandled_of_no_overrun hp h hov
    rw [hdev, hpaths]
    exact ⟨⟨rfl, rfl, rfl, rfl, rfl, rfl, rfl, rfl, rfl, rfl⟩, ⟨rfl, rfl, rfl⟩,
      hmode.trans (if_neg (by simp [hov]))⟩


/-! ### The bus state -/

/-- The target the STATE levels give (45 R237). -/
def targetOfLevels (d : Device) : BusState :=
  if d.busoff then .busOff else if d.errwarn then .errorWarning else .errorActive

/-- A read of STATE answers the levels at their positions (40 R134). -/
theorem targetOfState_readState {p : Params} (hp : p.Admissible) (d : Device) (fresh : Word) :
    targetOfState p (readState p d fresh) = targetOfLevels d := by
  obtain ⟨hw, hb, hne⟩ := hp.state
  have hwarn : (readState p d fresh).getLsbD p.stateErrwarn = d.errwarn := by
    simp only [readState, withRsv_getLsbD, stateMask, stateBits, BitVec.getLsbD_or, bit_getLsbD, bitIf_getLsbD]
    simp [hw, hne]
  have hoff : (readState p d fresh).getLsbD p.stateBusoff = d.busoff := by
    simp only [readState, withRsv_getLsbD, stateMask, stateBits, BitVec.getLsbD_or, bit_getLsbD, bitIf_getLsbD]
    simp [hb, hne.symm]
  rw [targetOfState, hwarn, hoff, targetOfLevels]

/-- A flag step leaves of the handler's variables what its step leaves. -/
theorem whenFlag_vars {α : Type} {π : IsrVars → α} {step : IsrState → IsrState} (h : ∀ x, π (step x).1 = π x.1) (n : Nat)
    (x : IsrState) : π (whenFlag n step x).1 = π x.1 := by
  unfold whenFlag
  split
  · exact h x
  · rfl

theorem stepBusError_target (x : IsrState) : (stepBusError x).1.target = x.1.target := (ensureEf_spec (x.1, _)).2.1

theorem stepBusError_status (x : IsrState) : (stepBusError x).1.status = x.1.status := (ensureEf_spec (x.1, _)).1

theorem stepRxOverrun_target (x : IsrState) : (stepRxOverrun x).1.target = x.1.target := (ensureEf_spec x).2.1

theorem stepRxOverrun_status (x : IsrState) : (stepRxOverrun x).1.status = x.1.status := (ensureEf_spec x).1

/-- The target the flags compute: from the levels if ERR_WARN is set, then toggled if PASSIVE_ERR is (45 R237, R239). -/
theorem isrTargets_target {x : IsrState} (hp : x.2.params.Admissible) (h : x.2.schedule = []) :
    (isrTargets x.2.params x).1.target =
      let t := if x.1.status.getLsbD x.2.params.intErrWarn then targetOfLevels x.2.dev else x.1.target
      if x.1.status.getLsbD x.2.params.intPassiveErr then toggle t else t := by
  have hwarn : (whenFlag x.2.params.intErrWarn stepErrorWarning x).1.target =
      if x.1.status.getLsbD x.2.params.intErrWarn then targetOfLevels x.2.dev else x.1.target := by
    unfold whenFlag
    split
    · rw [stepErrorWarning, rd_value, interlude_of_nil h]
      exact targetOfState_readState hp _ _
    · rfl
  have hstatus : (whenFlag x.2.params.intErrWarn stepErrorWarning x).1.status = x.1.status :=
    whenFlag_vars (π := IsrVars.status) (step := stepErrorWarning) (fun _ => rfl) _ _
  have hbus := whenFlag_vars stepBusError_target x.2.params.intBusErr (whenFlag x.2.params.intErrWarn stepErrorWarning x)
  have hbus' := whenFlag_vars stepBusError_status x.2.params.intBusErr (whenFlag x.2.params.intErrWarn stepErrorWarning x)
  rw [isrTargets, whenFlag, hbus', hstatus]
  split
  · rw [stepErrorPassive, hbus, hwarn]
  · rw [hbus, hwarn]

/-- The state update stores the target, but leaves BusOff and Stopped (45 R242). -/
theorem stateUpdate_busState (x : IsrState) : (stateUpdate x).2.handle.busState =
    if x.2.handle.busState = .busOff ∨ x.2.handle.busState = .stopped then x.2.handle.busState else x.1.target := by
  have hattr := ensureEf_handle (π := Handle.busState) (fun _ _ => rfl)
    (x.1, x.2.updHandle fun h => { h with busState := x.1.target })
  split
  · next hleft => rw [stateUpdate_of_left_alone hleft]
  · next hleft =>
    rw [not_or] at hleft
    unfold stateUpdate notifyIfBusOff
    split
    · split
      · rw [emitStep_handle]
        exact hattr
      · exact hattr
    · next hsame => simpa [hleft, eq_comm] using hsame

/-- With nothing scheduled, `n` times the bus-off notice stands in the trace. -/
def State.Notified (n : Nat) (t : State) : Prop := t.schedule = [] ∧ t.trace.count .notifyBusOff = n

theorem State.Notified.append {n : Nat} {s t : State} {es : List Event} (h : s.Notified n) (hs : t.schedule = s.schedule)
    (ht : t.trace = s.trace ++ es) (hes : .notifyBusOff ∉ es) : t.Notified n := by
  refine ⟨hs.trans h.1, ?_⟩
  rw [ht, List.count_append, List.count_eq_zero_of_not_mem hes, h.2]
  rfl

/-- Only the state update notifies (45 R244). -/
theorem keptBySteps_notified (n : Nat) : KeptBySteps (State.Notified n) where
  coreStep := fun s hs => by rw [coreStep_of_nil hs.1]; exact hs
  read := fun _ _ _ hs => hs.append rfl rfl (by simp)
  pop := fun _ _ hs => hs.append rfl rfl (by simp)
  write := fun _ _ _ _ hs => hs.append rfl rfl (by simp)
  emit := fun _ _ he hs => hs.append rfl rfl (by simpa using he.2.2.symm)
  answers := fun _ _ => id
  draws := fun _ _ => id
  handle := fun _ _ => id

theorem notified_pulse {n : Nat} (s : State) (hs : s.Notified n) : (resetPulse s).Notified n :=
  hs.append rfl rfl (by simp)

/-- The state update notifies once where it stores BusOff anew (45 R244). -/
theorem stateUpdate_notified {n : Nat} {x : IsrState} (h : x.2.Notified n) : (stateUpdate x).2.Notified
    (n + oneIf ((stateUpdate x).2.handle.busState == .busOff && x.2.handle.busState != .busOff)) := by
  by_cases hc : x.1.target ≠ x.2.handle.busState ∧ x.2.handle.busState ≠ .busOff ∧ x.2.handle.busState ≠ .stopped
  · obtain ⟨-, hoff, hstop⟩ := id hc
    have hattr : (attributeState x.1.target (x.1, x.2.updHandle fun h => { h with busState := x.1.target })).2.Notified n :=
      (keptBySteps_notified n).ensureEf (x := (x.1, _)) h
    rw [stateUpdate_busState, if_neg (not_or.mpr ⟨hoff, hstop⟩), stateUpdate, if_pos hc]
    generalize attributeState x.1.target (x.1, x.2.updHandle fun h => { h with busState := x.1.target }) = y at hattr
    by_cases hnew : x.1.target = .busOff
    · have hone : oneIf (x.1.target == .busOff && x.2.handle.busState != .busOff) = 1 := by simp [oneIf, hnew, hoff]
      rw [hone, notifyIfBusOff, if_pos hnew]
      refine ⟨by rw [emitStep_schedule, hattr.1, List.tail_nil], ?_⟩
      rw [emitStep_trace, interlude_of_nil hattr.1, List.count_append, hattr.2]
      rfl
    · have hzero : oneIf (x.1.target == .busOff && x.2.handle.busState != .busOff) = 0 := by simp [oneIf, hnew]
      rw [hzero, notifyIfBusOff, if_neg hnew]
      exact hattr
  · have hsame : stateUpdate x = x := by rw [stateUpdate, if_neg hc]
    have hzero : oneIf (x.2.handle.busState == .busOff && x.2.handle.busState != .busOff) = 0 := by
      cases x.2.handle.busState <;> rfl
    rw [hsame, hzero]
    exact h


/-- The handler's state after the recovery, before the target is computed (45 R236). -/
def isrRecovered (s : State) : IsrState :=
  whenFlag s.params.intRxBufOv stepRxOverrun (isrBefore s.params (isrEntry (begin .isr s)))

theorem isrHandled_eq (s : State) : isrHandled s = deliverEf (isrAfter s.params (isrRecovered s)) := rfl

theorem isrRecovered_params (s : State) : (isrRecovered s).2.params = s.params := by
  unfold isrRecovered whenFlag
  split
  · rw [stepRxOverrun_params, isrBefore_params, isrEntry_params]
    rfl
  · rw [isrBefore_params, isrEntry_params]
    rfl

theorem isrRecovered_status {s : State} (h : s.schedule = []) {n : Nat} (hn : n < 15) :
    (isrRecovered s).1.status.getLsbD n = s.dev.intFlag n := by
  rw [isrRecovered, whenFlag_vars stepRxOverrun_status, isrBefore_fst]
  exact status_getLsbD h hn

theorem isrRecovered_target (s : State) : (isrRecovered s).1.target = s.handle.busState := by
  rw [isrRecovered, whenFlag_vars stepRxOverrun_target, isrBefore_fst]
  rfl

theorem isrRecovered_busState (s : State) : (isrRecovered s).2.handle.busState = s.handle.busState := by
  have overrun (x : IsrState) : (stepRxOverrun x).2.handle.busState = x.2.handle.busState := by
    rw [stepRxOverrun_handle]
    exact ensureEf_handle (π := Handle.busState) (fun _ _ => rfl) x
  rw [isrRecovered, whenFlag_handle overrun, isrBefore_handle (π := Handle.busState) (fun _ _ => rfl) (fun _ _ => rfl)]
  simp [isrEntry, begin]

/-- Undisturbed, the levels the target is computed from are those of before, and 0 after a recovery (45 R236, R237). -/
theorem isrRecovered_levels {s : State} (hp : s.params.Admissible) (h : s.schedule = []) :
    (isrRecovered s).2.schedule = []
      ∧ (isrRecovered s).2.dev.busoff = (s.dev.busoff && !s.dev.intFlag s.params.intRxBufOv)
      ∧ (isrRecovered s).2.dev.errwarn = (s.dev.errwarn && !s.dev.intFlag s.params.intRxBufOv) := by
  obtain ⟨hsched, hdev, -⟩ := isrEntry_of_nil (s := begin .isr s) h
  obtain ⟨-, -, hint, -⟩ := hp.int_lt
  obtain ⟨hsched', hdev', -⟩ := isrBefore_onlyPaths s.params hsched
  have hbit : (isrBefore s.params (isrEntry (begin .isr s))).1.status.getLsbD s.params.intRxBufOv
      = s.dev.intFlag s.params.intRxBufOv := by
    rw [isrBefore_fst]
    exact status_getLsbD h hint
  have hparams : (isrBefore s.params (isrEntry (begin .isr s))).2.params.Admissible := by
    rw [isrBefore_params, isrEntry_params]
    exact hp
  cases hov : s.dev.intFlag s.params.intRxBufOv
  · rw [isrRecovered, whenFlag_of_clear (hbit.trans hov), hdev', hdev, Bool.not_false, Bool.and_true, Bool.and_true]
    exact ⟨hsched', rfl, rfl⟩
  · obtain ⟨⟨hsched'', -, hwarn, hoff, -⟩, -⟩ := stepRxOverrun_of_nil hparams hsched'
    rw [isrRecovered, whenFlag_of_set (hbit.trans hov), hwarn, hoff, Bool.not_true, Bool.and_false, Bool.and_false]
    exact ⟨hsched'', rfl, rfl⟩

theorem isrRecovered_notified {s : State} (h : s.schedule = []) :
    (isrRecovered s).2.Notified (s.trace.count .notifyBusOff) := by
  have hkept := keptBySteps_notified (s.trace.count .notifyBusOff)
  have hentry := hkept.isrEntry (s := begin .isr s) ⟨h, rfl⟩
  exact whenFlag_keeps_state (step := stepRxOverrun) (fun _ => hkept.stepRxOverrun notified_pulse) _
    (hkept.isrBefore (fun s => hkept.write .cmd 0 s (by decide)) hkept.pop s.params hentry)

/-- The bus state the handler leaves is that of its state update (45 R242). -/
theorem opIsr_busState (s : State) :
    (opIsr s).handle.busState = (stateUpdate (isrTargets s.params (isrRecovered s))).2.handle.busState := by
  have hlost := whenFlag_handle (π := Handle.busState) (stepArbitrationLost_handle fun _ _ => rfl) s.params.intTxLostarb
    (stateUpdate (isrTargets s.params (isrRecovered s)))
  rw [← hlost]
  simp [opIsr_eq, finish, acknowledge, isrHandled_eq, deliverEf_handle, isrAfter]

/-- Settles O50. -/
theorem isrComputesTheBusState : Obligations.IsrComputesTheBusState := by
  intro s hp hs h
  obtain ⟨-, -, -, hwarn, -, hpassive, -⟩ := hp.int_lt
  obtain ⟨hsched, hoff, hlevel⟩ := isrRecovered_levels hp h
  have hparams := isrRecovered_params s
  have hkept := keptBySteps_notified (s.trace.count .notifyBusOff)
  have hbus : (isrTargets s.params (isrRecovered s)).2.handle.busState = s.handle.busState :=
    (isrTargets_handle (π := Handle.busState) (fun _ _ => rfl) _ _).trans (isrRecovered_busState s)
  have htarget := isrTargets_target (x := isrRecovered s) (by rwa [hparams]) hsched
  rw [hparams, isrRecovered_status h hwarn, isrRecovered_status h hpassive, isrRecovered_target, targetOfLevels, hoff,
    hlevel] at htarget
  have hstate := opIsr_busState s
  refine ⟨opIsr s, exec_opIsr hs, ?_, ?_⟩
  · rw [hstate, stateUpdate_busState, hbus, htarget]
    rfl
  · have hnotified := stateUpdate_notified (hkept.isrTargets s.params (isrRecovered_notified h))
    rw [← hstate, hbus] at hnotified
    have hkept' := keptBySteps_notified
      (s.trace.count .notifyBusOff + oneIf ((opIsr s).handle.busState == .busOff && s.handle.busState != .busOff))
    have hhandled : (isrHandled s).2.Notified _ := hkept'.deliverEf
      (whenFlag_keeps_state (step := stepArbitrationLost) (fun _ => hkept'.stepArbitrationLost) s.params.intTxLostarb hnotified)
    rw [opIsr_trace, interlude_of_nil hhandled.1, List.count_append, hhandled.2]
    rfl


/-! ### The statistics -/

/-- The statistics but for the drops, which the diagnostic frame's allocation counts too (45 R240). -/
def Stats.counted (t : Stats) : Stats := { t with rxDropped := 0 }

theorem ensureEf_counted (x : IsrState) : (ensureEf x).2.handle.stats.counted = x.2.handle.stats.counted := by
  obtain ⟨-, -, -, h | h⟩ := ensureEf_spec x
  · rw [h]
  · rw [h]
    rfl

/-- A flag step counts `f` where its flag is set. -/
theorem whenFlag_counted {step : IsrState → IsrState} {f : Nat → Stats → Stats}
    (hstep : ∀ x, (step x).2.handle.stats.counted = f 1 x.2.handle.stats.counted) (hzero : ∀ t, f 0 t = t) (n : Nat)
    (x : IsrState) : (whenFlag n step x).2.handle.stats.counted = f (oneIf (x.1.status.getLsbD n)) x.2.handle.stats.counted := by
  cases hn : x.1.status.getLsbD n
  · rw [whenFlag_of_clear hn]
    exact (hzero _).symm
  · rw [whenFlag_of_set hn]
    exact hstep x

def countOverruns (k : Nat) (t : Stats) : Stats := { t with rxOverErrors := t.rxOverErrors + k, rxErrors := t.rxErrors + k }

def countBusErrors (k : Nat) (t : Stats) : Stats := { t with busError := t.busError + k }

def countLostArbitrations (k : Nat) (t : Stats) : Stats :=
  { t with arbitrationLost := t.arbitrationLost + k, txErrors := t.txErrors + k }

theorem stepRxOverrun_counted (x : IsrState) :
    (stepRxOverrun x).2.handle.stats.counted = countOverruns 1 x.2.handle.stats.counted := by
  rw [stepRxOverrun_handle, ← ensureEf_counted]
  rfl

theorem stepBusError_counted (x : IsrState) :
    (stepBusError x).2.handle.stats.counted = countBusErrors 1 x.2.handle.stats.counted := by
  refine (ensureEf_counted (x.1, _)).trans ?_
  rw [rd_handle]
  rfl

theorem stepArbitrationLost_counted (x : IsrState) :
    (stepArbitrationLost x).2.handle.stats.counted = countLostArbitrations 1 x.2.handle.stats.counted := by
  refine (ensureEf_counted (x.1, _)).trans ?_
  rw [rd_handle]
  rfl

theorem stateUpdate_counted (x : IsrState) : (stateUpdate x).2.handle.stats.counted = x.2.handle.stats.counted := by
  have hattr := ensureEf_counted (x.1, x.2.updHandle fun h => { h with busState := x.1.target })
  unfold stateUpdate notifyIfBusOff
  split
  · split
    · rw [emitStep_handle]
      exact hattr
    · exact hattr
  · rfl

theorem stateUpdate_status (x : IsrState) : (stateUpdate x).1.status = x.1.status := by
  have hattr := (ensureEf_spec (x.1, x.2.updHandle fun h => { h with busState := x.1.target })).1
  unfold stateUpdate notifyIfBusOff
  split
  · split <;> exact hattr
  · rfl

theorem isrTargets_status (p : Params) (x : IsrState) : (isrTargets p x).1.status = x.1.status :=
  (whenFlag_vars (π := IsrVars.status) (step := stepErrorPassive) (fun _ => rfl) _ _).trans <|
    (whenFlag_vars stepBusError_status _ _).trans <|
    whenFlag_vars (π := IsrVars.status) (step := stepErrorWarning) (fun _ => rfl) _ _

/-- After the receive paths each of three flags counts once (45 R236, R238, R241). -/
theorem isrAfter_counted (p : Params) (x : IsrState) :
    (isrAfter p (whenFlag p.intRxBufOv stepRxOverrun x)).2.handle.stats.counted =
      countLostArbitrations (oneIf (x.1.status.getLsbD p.intTxLostarb))
        (countBusErrors (oneIf (x.1.status.getLsbD p.intBusErr))
          (countOverruns (oneIf (x.1.status.getLsbD p.intRxBufOv)) x.2.handle.stats.counted)) := by
  have hov := whenFlag_vars stepRxOverrun_status p.intRxBufOv x
  have htargets : (isrTargets p (whenFlag p.intRxBufOv stepRxOverrun x)).2.handle.stats.counted =
      countBusErrors (oneIf (x.1.status.getLsbD p.intBusErr))
        (countOverruns (oneIf (x.1.status.getLsbD p.intRxBufOv)) x.2.handle.stats.counted) := by
    rw [isrTargets, whenFlag_handle (π := fun h => h.stats.counted) (step := stepErrorPassive) (fun _ => rfl),
      whenFlag_counted stepBusError_counted (fun _ => rfl),
      whenFlag_handle (π := fun h => h.stats.counted) (step := stepErrorWarning) (fun y => by rw [stepErrorWarning_handle]),
      whenFlag_vars (π := IsrVars.status) (step := stepErrorWarning) (fun _ => rfl),
      whenFlag_counted stepRxOverrun_counted (fun _ => rfl), hov]
  rw [isrAfter, whenFlag_counted stepArbitrationLost_counted (fun _ => rfl), stateUpdate_status, isrTargets_status, hov,
    stateUpdate_counted, htargets]

/-- A property of the handler's variables, the drops and the coming allocations that ensure_ef keeps is kept after the receive
paths: no other step there touches these. -/
theorem isrAfter_keeps {P : IsrState → Prop} (hensure : ∀ x, P x → P (ensureEf x))
    (hframe : ∀ x y : IsrState, y.1.ef.isSome = x.1.ef.isSome → y.1.efFailed = x.1.efFailed →
      y.2.handle.stats.rxDropped = x.2.handle.stats.rxDropped → y.2.answers = x.2.answers → P x → P y)
    (p : Params) {x : IsrState} (hx : P x) : P (isrAfter p (whenFlag p.intRxBufOv stepRxOverrun x)) := by
  have overrun (x : IsrState) (hx : P x) : P (stepRxOverrun x) :=
    hframe (ensureEf x) _ (by simp [stepRxOverrun, countIn, editEf]) rfl (by rw [stepRxOverrun_handle])
      (by simp [stepRxOverrun, countIn, editEf]) (hensure x hx)
  have warning (x : IsrState) (hx : P x) : P (stepErrorWarning x) :=
    hframe x _ rfl rfl (by rw [stepErrorWarning_handle]) (by simp [stepErrorWarning]) hx
  have busError (x : IsrState) (hx : P x) : P (stepBusError x) :=
    hframe (ensureEf (x.1, _)) _ (by simp [stepBusError, editEf]) rfl rfl rfl
      (hensure _ (hframe x _ rfl rfl (by simp) (by simp) hx))
  have lost (x : IsrState) (hx : P x) : P (stepArbitrationLost x) :=
    hframe (ensureEf (x.1, _)) _ (by simp [stepArbitrationLost, editEf]) rfl rfl rfl
      (hensure _ (hframe x _ rfl rfl (by simp) (by simp) hx))
  have update (x : IsrState) (hx : P x) : P (stateUpdate x) := by
    unfold stateUpdate notifyIfBusOff
    have hattr : P (attributeState x.1.target (x.1, x.2.updHandle fun h => { h with busState := x.1.target })) :=
      hframe (ensureEf (x.1, _)) _ (by simp [attributeState, editEf]) rfl rfl rfl (hensure _ (hframe x _ rfl rfl rfl rfl hx))
    split
    · split
      · exact hframe (attributeState x.1.target (x.1, _)) _ rfl rfl (by simp) (by simp) hattr
      · exact hattr
    · exact hx
  exact whenFlag_keeps lost _ <| update _ <| whenFlag_keeps (step := stepErrorPassive) (fun x => hframe x _ rfl rfl rfl rfl) _ <|
    whenFlag_keeps busError _ <| whenFlag_keeps warning _ <| whenFlag_keeps overrun _ hx


/-- ensure_ef has nothing to do, allocates the frame, or counts a drop (45 R240). -/
theorem ensureEf_cases (x : IsrState) :
    (ensureEf x = x ∧ (x.1.ef.isSome = true ∨ x.1.efFailed = true))
      ∨ (x.1.ef = none ∧ x.1.efFailed = false ∧ nextAlloc x.2 = true ∧ ensureEf x = ({ x.1 with ef := some {} }, allocStep x.2))
      ∨ (x.1.ef = none ∧ x.1.efFailed = false ∧ nextAlloc x.2 = false
          ∧ ensureEf x = ({ x.1 with efFailed := true },
              (allocStep x.2).updStats fun t => { t with rxDropped := t.rxDropped + 1 })) := by
  unfold ensureEf
  cases hef : x.1.ef <;> cases hfailed : x.1.efFailed <;> cases ha : nextAlloc x.2 <;> simp

/-- After the receive paths at most one drop is counted: a failed allocation of the diagnostic frame is not tried again
(45 R240). -/
theorem isrAfter_dropped (p : Params) (x : IsrState) :
    (isrAfter p (whenFlag p.intRxBufOv stepRxOverrun x)).2.handle.stats.rxDropped ≤ x.2.handle.stats.rxDropped + 1 := by
  have hle := isrAfter_keeps
    (P := fun y => y.2.handle.stats.rxDropped + oneIf (!y.1.ef.isSome && !y.1.efFailed) ≤ x.2.handle.stats.rxDropped + 1)
    (fun y hy => ?_) (fun y z hef hfailed hdropped _ hy => by rw [hef, hfailed, hdropped]; exact hy) p
    (by cases x.1.ef.isSome <;> cases x.1.efFailed <;> simp [oneIf])
  · omega
  · obtain ⟨heq, -⟩ | ⟨hef, hfailed, -, heq⟩ | ⟨hef, hfailed, -, heq⟩ := ensureEf_cases y
    · rwa [heq]
    · rw [heq]
      simp [hef, hfailed, oneIf] at hy ⊢
      omega
    · rw [heq]
      simp [hef, hfailed, oneIf] at hy ⊢
      omega

/-- With the next allocation answered ok none is counted (45 R240). -/
theorem isrAfter_dropped_of_ok (p : Params) {x : IsrState} (hfailed : x.1.efFailed = false)
    (ha : x.2.answers.alloc.head? = some true) :
    (isrAfter p (whenFlag p.intRxBufOv stepRxOverrun x)).2.handle.stats.rxDropped = x.2.handle.stats.rxDropped := by
  refine (isrAfter_keeps (P := fun y => y.2.handle.stats.rxDropped = x.2.handle.stats.rxDropped
    ∧ (y.1.ef.isSome = true ∨ y.1.efFailed = false ∧ y.2.answers.alloc.head? = some true)) (fun y hy => ?_)
    (fun y z hef hfailed hdropped halloc hy => by rw [hef, hfailed, hdropped, halloc]; exact hy) p
    ⟨rfl, .inr ⟨hfailed, ha⟩⟩).1
  obtain ⟨hdropped, hy⟩ := hy
  obtain ⟨heq, -⟩ | ⟨-, -, -, heq⟩ | ⟨hef, -, hfail, -⟩ := ensureEf_cases y
  · rw [heq]
    exact ⟨hdropped, hy⟩
  · rw [heq]
    exact ⟨by simpa using hdropped, .inl rfl⟩
  · obtain hsome | ⟨-, hok⟩ := hy
    · simp [hef] at hsome
    · rw [nextAlloc_of_head hok] at hfail
      cases hfail

theorem isrAfter_stats_le (p : Params) (x : IsrState) :
    x.2.handle.stats.LeAll (isrAfter p (whenFlag p.intRxBufOv stepRxOverrun x)).2.handle.stats :=
  (whenFlag_stats_le stepRxOverrun_stats_le _ _).trans <|
  (whenFlag_stats_le (fun y => .of_eq (stepErrorWarning_stats y)) _ _).trans <|
  (whenFlag_stats_le stepBusError_stats_le _ _).trans <|
  (whenFlag_stats_le (fun y => .of_eq (stepErrorPassive_stats y)) _ _).trans <|
  (stateUpdate_stats_le _).trans <|
  whenFlag_stats_le stepArbitrationLost_stats_le _ _

/-- Undisturbed, releasing an echo entry emits its completion and leaves the device (45 R234). -/
theorem completeEcho_of_nil {s : State} (h : s.schedule = []) :
    (completeEcho s).schedule = [] ∧ (completeEcho s).dev = s.dev
      ∧ (completeEcho s).trace = s.trace ++ (s.handle.outstanding.take 1).map .echoComplete := by
  unfold completeEcho
  split
  · next ho => simp [ho, h]
  · next e rest ho => simp [ho, h, interlude_of_nil]

/-- Undisturbed, a sent frame's step clears the request bits under clears_all, and its accesses and events are these
(45 R234). -/
theorem stepTxFinish_of_nil {x : IsrState} (h : x.2.schedule = []) :
    (stepTxFinish x).2.schedule = []
      ∧ (stepTxFinish x).2.dev = { x.2.dev with
          req0 := x.2.dev.req0 && x.2.params.cmdZeroWrite == .noEffect,
          req1 := x.2.dev.req1 && x.2.params.cmdZeroWrite == .noEffect }
      ∧ (stepTxFinish x).2.trace = x.2.trace
          ++ [.access .read (x.2.params.off .txfic) x.2.dev.txfic, .access .write (x.2.params.off .cmd) 0]
          ++ (x.2.handle.outstanding.take 1).map .echoComplete ++ [.queueResume]
      ∧ (rd .txfic x.2).1 = x.2.dev.txfic := by
  have hread : (rd .txfic x.2).1 = x.2.dev.txfic := by rw [rd_value, interlude_of_nil h]; rfl
  obtain ⟨h1, h2, h3⟩ := completeEcho_of_nil (s := wr .cmd 0 ((rd .txfic x.2).2.updStats fun t =>
    { t with txBytes := t.txBytes + countedBytes (rd .txfic x.2).1, txPackets := t.txPackets + 1 })) (by simp [h])
  refine ⟨?_, ?_, ?_, hread⟩
  · rw [stepTxFinish, emitStep_schedule, h1, List.tail_nil]
  · rw [stepTxFinish, emitStep_dev, interlude_of_nil h1, h2]
    simp [h, interlude_of_nil, regWrite, regAfterRead]
    exact writeCmd_zero _ _
  · rw [stepTxFinish, emitStep_trace, interlude_of_nil h1, h3]
    simp [h, interlude_of_nil, wr_trace, rd_trace, hread]


/-- Receive takes one of the host's answers (44 R224). -/
theorem receive_answers (s : State) : (receive s).answers = { s.answers with alloc := s.answers.alloc.tail } := by
  unfold receive deliver
  dsimp only
  split <;> simp

/-- The handler's state after a sent frame, before a received one (45 R234). -/
def isrSent (s : State) : IsrState := whenFlag s.params.intTxFinish stepTxFinish (isrEntry (begin .isr s))

theorem isrSent_fst (s : State) : (isrSent s).1 = (isrEntry (begin .isr s)).1 := by
  unfold isrSent whenFlag
  split <;> rfl

/-- Undisturbed, a sent frame is counted with the bytes TXFIC tells; the FIFO and the host's answers are as before
(45 R234). -/
theorem isrSent_of_nil {s : State} (hp : s.params.Admissible) (h : s.schedule = []) :
    (isrSent s).2.schedule = [] ∧ (isrSent s).2.dev.rxfifo = s.dev.rxfifo ∧ (isrSent s).2.answers = s.answers
      ∧ (isrSent s).2.handle.stats = { s.handle.stats with
          txBytes := s.handle.stats.txBytes
            + (if s.dev.intFlag s.params.intTxFinish then countedBytes s.dev.txfic else 0),
          txPackets := s.handle.stats.txPackets + oneIf (s.dev.intFlag s.params.intTxFinish) } := by
  obtain ⟨hlt, -⟩ := hp.int_lt
  obtain ⟨hsched, hdev, hhandle⟩ := isrEntry_of_nil (s := begin .isr s) h
  have hanswers : (isrEntry (begin .isr s)).2.answers = s.answers := by simp [isrEntry, begin]
  have hbit : (isrEntry (begin .isr s)).1.status.getLsbD s.params.intTxFinish = s.dev.intFlag s.params.intTxFinish :=
    status_getLsbD h hlt
  cases hset : s.dev.intFlag s.params.intTxFinish
  · rw [isrSent, whenFlag_of_clear (hbit.trans hset), hdev, hhandle]
    exact ⟨hsched, rfl, hanswers, rfl⟩
  · obtain ⟨hsched', hdev', -, hread⟩ := stepTxFinish_of_nil hsched
    rw [isrSent, whenFlag_of_set (hbit.trans hset), hdev', stepTxFinish_handle, hread, hdev, hhandle]
    exact ⟨hsched', rfl, by simpa [stepTxFinish] using hanswers, rfl⟩

/-- The answer the received frame's allocation is given (44 R224, log 5). -/
def rxAlloc (s : State) : Bool := nextAlloc (popPorts (List.finRange 19) (isrSent s).2).2

/-- The frame received (44 R224). -/
def rxFrame (s : State) : Frame := frameOfWords (popPorts (List.finRange 19) (isrSent s).2).1

/-- A received frame is counted, or its drop, where RX_FINISH is set (45 R235, 44 R224). -/
theorem isrBefore_stats {s : State} (hp : s.params.Admissible) (h : s.schedule = []) :
    (isrBefore s.params (isrEntry (begin .isr s))).2.handle.stats =
      if s.dev.intFlag s.params.intRxFinish then
        if rxAlloc s then countReceived (rxFrame s) (isrSent s).2.handle.stats
        else { (isrSent s).2.handle.stats with rxDropped := (isrSent s).2.handle.stats.rxDropped + 1 }
      else (isrSent s).2.handle.stats := by
  obtain ⟨-, hlt, -⟩ := hp.int_lt
  have hbit : (isrSent s).1.status.getLsbD s.params.intRxFinish = s.dev.intFlag s.params.intRxFinish := by
    rw [isrSent_fst]
    exact status_getLsbD h hlt
  rw [isrBefore, ← isrSent, whenFlag, hbit]
  split
  · rw [stepRxFinish, receive, deliver_handle, popPorts_handle]
    rfl
  · rfl

/-- A received frame's allocation takes the first of the host's answers (44 R224, log 5). -/
theorem isrBefore_answers {s : State} (hp : s.params.Admissible) (h : s.schedule = [])
    (hset : s.dev.intFlag s.params.intRxFinish = true) :
    (isrBefore s.params (isrEntry (begin .isr s))).2.answers.alloc = s.answers.alloc.tail := by
  obtain ⟨-, hlt, -⟩ := hp.int_lt
  obtain ⟨-, -, hanswers, -⟩ := isrSent_of_nil hp h
  have hbit : (isrSent s).1.status.getLsbD s.params.intRxFinish = true := by
    rw [isrSent_fst]
    exact (status_getLsbD h hlt).trans hset
  rw [isrBefore, ← isrSent, whenFlag_of_set hbit, stepRxFinish, receive_answers, hanswers]

/-- The frame received is the one the words at the head of the FIFO decode to (44 R224). -/
theorem rxFrame_of_entry {s : State} (hp : s.params.Admissible) (h : s.schedule = []) {e : List Word}
    {rest : List (List Word)} (hfifo : s.dev.rxfifo = e :: rest) (hlen : e.length = 19) :
    rxFrame s = decodeFrame (e.getD 0 0) (e.getD 1 0) (e.drop 3) := by
  obtain ⟨-, hsame, -⟩ := isrSent_of_nil hp h
  have hne : e ≠ [] := List.ne_nil_of_length_pos (by omega)
  obtain ⟨hwords, -⟩ := popPorts_entry (List.finRange 19) (e := e) (rest := rest) (s := (isrSent s).2) (by simpa using hlen)
    (by rw [hsame, hfifo, entryThen, if_neg hne])
  rw [rxFrame, hwords, frameOfWords]

/-- The three flags after the receive paths count once in what these leave (45 R236, R238, R241). -/
theorem opIsr_counted {s : State} (hp : s.params.Admissible) (h : s.schedule = []) :
    (opIsr s).handle.stats.counted =
      countLostArbitrations (oneIf (s.dev.intFlag s.params.intTxLostarb))
        (countBusErrors (oneIf (s.dev.intFlag s.params.intBusErr))
          (countOverruns (oneIf (s.dev.intFlag s.params.intRxBufOv))
            (isrBefore s.params (isrEntry (begin .isr s))).2.handle.stats.counted)) := by
  obtain ⟨-, -, hov, -, hbus, -, hlost, -⟩ := hp.int_lt
  have bit {n : Nat} (hn : n < 15) : (isrBefore s.params (isrEntry (begin .isr s))).1.status.getLsbD n = s.dev.intFlag n := by
    rw [isrBefore_fst]
    exact status_getLsbD h hn
  have hafter := isrAfter_counted s.params (isrBefore s.params (isrEntry (begin .isr s)))
  rw [bit hov, bit hbus, bit hlost] at hafter
  rw [← hafter]
  simp [opIsr, finish, acknowledge, deliverEf_handle, isrSteps_eq]

theorem opIsr_stats (s : State) : (opIsr s).handle.stats = (isrAfter s.params (isrRecovered s)).2.handle.stats := by
  simp [opIsr_eq, isrHandled_eq, finish, acknowledge, deliverEf_handle]

/-- The bytes of a sent frame (45 R234). -/
theorem countedBytes_if (b : Bool) (w : Word) :
    (if b then countedBytes w else 0)
      = if b && !w.getLsbD 6 then dlc2len (w.getLsbD 5) (w.extractLsb' 0 4) else 0 := by
  cases b <;> cases h : w.getLsbD 6 <;> simp only [countedBytes, h] <;> rfl

/-- Settles O51. -/
theorem isrCountsEachFlagOnce : Obligations.IsrCountsEachFlagOnce := by
  intro s hp hs h
  refine ⟨opIsr s, exec_opIsr hs, ?_⟩
  dsimp only
  obtain ⟨hsched, hfifo, hanswers, hsent⟩ := isrSent_of_nil hp h
  have hcounted := opIsr_counted hp h
  have hbefore := isrBefore_stats hp h
  have hle := isrAfter_dropped s.params (isrBefore s.params (isrEntry (begin .isr s)))
  obtain ⟨-, -, -, -, -, -, -, hge, -⟩ := isrAfter_stats_le s.params (isrBefore s.params (isrEntry (begin .isr s)))
  have hok := isrAfter_dropped_of_ok s.params (x := isrBefore s.params (isrEntry (begin .isr s))) (by rw [isrBefore_fst]; rfl)
  rw [← isrRecovered, ← opIsr_stats] at hle hge hok
  simp only [Stats.counted, countLostArbitrations, countBusErrors, countOverruns, Stats.mk.injEq] at hcounted
  obtain ⟨hrxp, hrxb, htxp, htxb, hrxe, htxe, hover, -, harb, hbus⟩ := hcounted
  rw [hrxp, hrxb, htxp, htxb, hrxe, htxe, hover, harb, hbus, ← countedBytes_if]
  rw [hsent] at hbefore
  cases hrx : s.dev.intFlag s.params.intRxFinish
  · rw [hrx, if_neg Bool.false_ne_true] at hbefore
    rw [hbefore]
    exact ⟨rfl, rfl, rfl, rfl, rfl, rfl, rfl, fun _ => ⟨rfl, rfl⟩, fun hc => absurd hc Bool.false_ne_true⟩
  · rw [hrx, if_pos rfl] at hbefore
    have hfirst : ∀ x, s.answers.alloc.head? = some x → rxAlloc s = x := fun x hx =>
      nextAlloc_of_head (by rwa [popPorts_answers, hanswers])
    have hsecond : s.answers.alloc[1]? = some true →
        (isrBefore s.params (isrEntry (begin .isr s))).2.answers.alloc.head? = some true := fun hx => by
      rwa [isrBefore_answers hp h hrx, List.head?_tail]
    have hdropped : (isrBefore s.params (isrEntry (begin .isr s))).2.handle.stats.rxDropped
        = s.handle.stats.rxDropped + oneIf (!rxAlloc s) := by
      rw [hbefore]
      cases rxAlloc s <;> rfl
    rw [hdropped] at hle hge hok
    have hbytes : (isrBefore s.params (isrEntry (begin .isr s))).2.handle.stats.rxBytes = s.handle.stats.rxBytes
        + if rxAlloc s then (if (rxFrame s).isRemote then 0 else (rxFrame s).length) else 0 := by
      rw [hbefore]
      cases rxAlloc s <;> rfl
    have hpackets : (isrBefore s.params (isrEntry (begin .isr s))).2.handle.stats.rxPackets
        = s.handle.stats.rxPackets + oneIf (rxAlloc s) := by
      rw [hbefore]
      cases rxAlloc s <;> rfl
    rw [hbytes, hpackets, hbefore]
    refine ⟨?_, ?_, ?_, ?_, ?_, ?_, ?_, fun hc => absurd hc.symm Bool.false_ne_true, fun _ => ⟨rxAlloc s, hfirst, rfl,
      fun hfail => by rw [hfail]; rfl, fun e rest hfifo hlen hal => ?_, hge, hle, fun hx => hok (hsecond hx)⟩⟩
    case refine_8 => rw [hal, if_pos rfl, rxFrame_of_entry hp h hfifo hlen]
    all_goals cases rxAlloc s <;> rfl

end Sys2Proof.Machine
end

