-- ==== Sys2Proof/Proofs/Diagnosis.lean ====
section
/-! PROOF. The interrupt handler with few flags set, undisturbed: what it does and delivers (spec/45_interrupt.md R234 to
R248). -/

namespace Sys2Proof.Machine

/-! ### Few flags set -/

theorem stateUpdate_of_same {x : IsrState} (h : x.1.target = x.2.handle.busState) : stateUpdate x = x :=
  if_neg fun hc => hc.1 h

theorem isrTargets_of_clear {p : Params} {x : IsrState} (hwarn : x.1.status.getLsbD p.intErrWarn = false)
    (hbus : x.1.status.getLsbD p.intBusErr = false) (hpassive : x.1.status.getLsbD p.intPassiveErr = false) :
    isrTargets p x = x := by
  rw [isrTargets, whenFlag_of_clear hwarn, whenFlag_of_clear hbus, whenFlag_of_clear hpassive]

/-- The handled flags that are not allowed are clear, in the word the handler reads too. -/
theorem status_of_onlyFlags {s : State} {allowed : List Nat} (hp : s.params.Admissible) (h : s.schedule = [])
    (honly : s.dev.OnlyFlags s.params allowed) {n : Nat}
    (hn : n ∈ [s.params.intTxFinish, s.params.intRxFinish, s.params.intRxBufOv, s.params.intErrWarn, s.params.intBusErr,
      s.params.intPassiveErr, s.params.intTxLostarb]) (hallowed : n ∉ allowed) :
    (isrEntry (begin .isr s)).1.status.getLsbD n = false := by
  have hlt : n < 15 := by
    obtain ⟨h1, h2, h3, h4, h5, h6, h7, -⟩ := hp.int_lt
    simp only [List.mem_cons, List.not_mem_nil, or_false] at hn
    omega
  exact (status_getLsbD h hlt).trans (honly n hn hallowed)

/-- With no flag but those of the receive paths set, the handler does nothing after these (45 R248). -/
theorem isrHandled_of_paths {s : State} (hp : s.params.Admissible) (h : s.schedule = []) {allowed : List Nat}
    (honly : s.dev.OnlyFlags s.params allowed) (hallowed : ∀ n ∈ [s.params.intRxBufOv, s.params.intErrWarn,
      s.params.intBusErr, s.params.intPassiveErr, s.params.intTxLostarb], n ∉ allowed) :
    isrHandled s = isrBefore s.params (isrEntry (begin .isr s)) := by
  generalize hy : isrBefore s.params (isrEntry (begin .isr s)) = y
  have hfst : y.1 = (isrEntry (begin .isr s)).1 := by rw [← hy, isrBefore_fst]
  have clear (n : Nat) (hn : n ∈ [s.params.intRxBufOv, s.params.intErrWarn, s.params.intBusErr, s.params.intPassiveErr,
      s.params.intTxLostarb]) : y.1.status.getLsbD n = false := by
    rw [hfst]
    exact status_of_onlyFlags hp h honly (by simp at hn ⊢; tauto) (hallowed n hn)
  have hsame : y.1.target = y.2.handle.busState := by
    rw [hfst, ← hy, isrBefore_handle (π := Handle.busState) (fun _ _ => rfl) (fun _ _ => rfl)]
    simp [isrEntry]
  rw [isrHandled_eq, isrRecovered, hy, whenFlag_of_clear (clear _ (by simp)), isrAfter,
    isrTargets_of_clear (clear _ (by simp)) (clear _ (by simp)) (clear _ (by simp)), stateUpdate_of_same hsame,
    whenFlag_of_clear (clear _ (by simp)), deliverEf, hfst]
  rfl

theorem isrEntry_trace_of_nil {s : State} (h : s.schedule = []) :
    (isrEntry s).2.trace = s.trace ++ [.access .read (s.params.off .int) (rd .int s).1,
      .access .read (s.params.off .rxerrcnt) s.dev.rxerrcnt, .access .read (s.params.off .txerrcnt) s.dev.txerrcnt] := by
  have hi : ∀ r, interlude (rd r s).2 = (rd r s).2 := fun r => interlude_of_nil (by simp [h])
  have hi' : ∀ r r', interlude (rd r (rd r' s).2).2 = (rd r (rd r' s).2).2 := fun r r' => interlude_of_nil (by simp [h])
  obtain ⟨-, -, hhandle⟩ := isrEntry_of_nil h
  have hrx : (rd .rxerrcnt (rd .int s).2).1 = s.dev.rxerrcnt := by
    simpa [isrEntry] using congrArg Handle.rxerr hhandle
  have htx : (rd .txerrcnt ((rd .rxerrcnt (rd .int s).2).2.updHandle fun t =>
      { t with rxerr := (rd .rxerrcnt (rd .int s).2).1 })).1 = s.dev.txerrcnt := by
    simpa [isrEntry] using congrArg Handle.txerr hhandle
  simp only [isrEntry, State.updHandle_trace, rd_trace, interlude_updHandle, State.updHandle_params, rd_params, hi, hi',
    interlude_of_nil h, htx, List.append_assoc]
  rw [hrx]
  rfl

theorem opIsr_handle (s : State) : (opIsr s).handle = (isrHandled s).2.handle := by
  simp [opIsr_eq, finish, acknowledge]

/-- Settles O46. -/
theorem isrWithoutHandledFlagsOnlyAcknowledges : Obligations.IsrWithoutHandledFlagsOnlyAcknowledges := by
  intro s hp hs h honly
  obtain ⟨hsched, hdev, hhandle⟩ := isrEntry_of_nil (s := begin .isr s) h
  have clear (n : Nat) := status_of_onlyFlags hp h honly (n := n)
  have hhandled : isrHandled s = isrEntry (begin .isr s) := by
    rw [isrHandled_of_paths hp h honly (by simp), isrBefore, whenFlag_of_clear (clear _ (by simp) (by simp)),
      whenFlag_of_clear (clear _ (by simp) (by simp))]
  have hbus : s.dev.intFlag s.params.intBusErr = false := honly _ (by simp) (by simp)
  refine ⟨opIsr s, exec_opIsr hs, ?_, ?_, (rd .int (begin .isr s)).1, ?_⟩
  · rw [opIsr_dev hp h, hhandled, hdev, hbus, Bool.not_false, Bool.and_true]
    rfl
  · rw [opIsr_handle, hhandled, hhandle]
    rfl
  · rw [opIsr_trace, hhandled, interlude_of_nil hsched, isrEntry_trace_of_nil (s := begin .isr s) h, List.append_assoc]
    rfl

/-- The seven flags handled are different bits (00 R9). -/
theorem handledFlags_ne {p : Params} (hp : p.Admissible) :
    (∀ n ∈ [p.intRxFinish, p.intRxBufOv, p.intErrWarn, p.intBusErr, p.intPassiveErr, p.intTxLostarb], n ∉ [p.intTxFinish])
      ∧ (∀ n ∈ [p.intTxFinish, p.intRxBufOv, p.intErrWarn, p.intBusErr, p.intPassiveErr, p.intTxLostarb], n ∉ [p.intRxFinish])
      ∧ (∀ n ∈ [p.intTxFinish, p.intRxFinish, p.intRxBufOv, p.intErrWarn, p.intPassiveErr], n ∉ [p.intBusErr, p.intTxLostarb])
      ∧ ∀ n ∈ [p.intTxFinish, p.intRxFinish, p.intRxBufOv, p.intErrWarn, p.intBusErr, p.intTxLostarb], n ∉ [p.intPassiveErr] := by
  have hne := hp.int_ne
  simp only [List.nodup_cons, List.mem_cons, List.not_mem_nil, or_false, not_or, List.nodup_nil] at hne
  simp
  tauto

/-- With TX_FINISH the only handled flag set, the handler only counts the sent frame (45 R232, R234). -/
theorem isrHandled_of_txFinish {s : State} (hp : s.params.Admissible) (h : s.schedule = [])
    (honly : s.dev.OnlyFlags s.params [s.params.intTxFinish]) (hset : s.dev.intFlag s.params.intTxFinish = true) :
    isrHandled s = stepTxFinish (isrEntry (begin .isr s)) := by
  obtain ⟨hlt, -⟩ := hp.int_lt
  obtain ⟨hothers, -⟩ := handledFlags_ne hp
  rw [isrHandled_of_paths hp h honly fun n hn => hothers n (List.mem_cons_of_mem _ hn), isrBefore,
    whenFlag_of_set (x := isrEntry (begin .isr s)) ((status_getLsbD h hlt).trans hset),
    whenFlag_of_clear (n := s.params.intRxFinish)]
  exact status_of_onlyFlags hp h honly (by simp) (hothers _ (by simp))

/-- Settles O47. -/
theorem isrHandlesTxFinish : Obligations.IsrHandlesTxFinish := by
  intro s hp hs h honly hset
  obtain ⟨hsched, hdev, hhandle⟩ := isrEntry_of_nil (s := begin .isr s) h
  obtain ⟨hsched', hdev', htrace', hread⟩ := stepTxFinish_of_nil hsched
  obtain ⟨hothers, -⟩ := handledFlags_ne hp
  have hhandled := isrHandled_of_txFinish hp h honly hset
  have hbus : s.dev.intFlag s.params.intBusErr = false := honly _ (by simp) (hothers _ (by simp))
  refine ⟨opIsr s, exec_opIsr hs, ?_⟩
  dsimp only
  refine ⟨?_, ?_, (rd .int (begin .isr s)).1, ?_⟩
  · rw [opIsr_dev hp h, hhandled, hdev', hdev, isrEntry_params, hbus, Bool.not_false, Bool.and_true]
    rfl
  · rw [opIsr_handle, hhandled, stepTxFinish_handle, hread, hdev, hhandle]
    rfl
  · rw [opIsr_trace, hhandled, interlude_of_nil hsched', htrace', hdev, hhandle, isrEntry_params,
      isrEntry_trace_of_nil (s := begin .isr s) h]
    simp [begin]

/-- With RX_FINISH the only handled flag set, the handler only receives (45 R232, R235). -/
theorem isrHandled_of_rxFinish {s : State} (hp : s.params.Admissible) (h : s.schedule = [])
    (honly : s.dev.OnlyFlags s.params [s.params.intRxFinish]) (hset : s.dev.intFlag s.params.intRxFinish = true) :
    isrHandled s = stepRxFinish (isrEntry (begin .isr s)) := by
  obtain ⟨-, hlt, -⟩ := hp.int_lt
  obtain ⟨-, hothers, -⟩ := handledFlags_ne hp
  rw [isrHandled_of_paths hp h honly fun n hn => hothers n (List.mem_cons_of_mem _ hn), isrBefore,
    whenFlag_of_clear (x := isrEntry (begin .isr s)) (status_of_onlyFlags hp h honly (by simp) (hothers _ (by simp))),
    whenFlag_of_set ((status_getLsbD h hlt).trans hset)]

/-- Settles O48. -/
theorem isrHandlesRxFinishOnce : Obligations.IsrHandlesRxFinishOnce := by
  intro s e rest hp hs h honly hset hfifo hlen halloc
  obtain ⟨hsched, hdev, hhandle⟩ := isrEntry_of_nil (s := begin .isr s) h
  obtain ⟨-, hothers, -⟩ := handledFlags_ne hp
  have hhandled := isrHandled_of_rxFinish hp h honly hset
  have hbus : s.dev.intFlag s.params.intBusErr = false := honly _ (by simp) (hothers _ (by simp))
  have hanswers : (isrEntry (begin .isr s)).2.answers = s.answers := by simp [isrEntry, begin]
  have hok : nextAlloc (popPorts (List.finRange 19) (isrEntry (begin .isr s)).2).2 = true :=
    nextAlloc_of_head (by rwa [popPorts_answers, hanswers])
  have hhead : (isrEntry (begin .isr s)).2.dev.rxfifo = e :: rest := by rw [hdev]; exact hfifo
  obtain ⟨hsched', hdev', htrace'⟩ := receive_of_nil hhead hlen hsched
  obtain ⟨hreceive, -⟩ := receive_of_entry hhead hlen
  refine ⟨opIsr s, exec_opIsr hs, ?_⟩
  dsimp only
  refine ⟨?_, ?_, ?_⟩
  · rw [opIsr_dev hp h, hhandled, stepRxFinish, hdev', hdev, hbus, Bool.not_false, Bool.and_true]
    rfl
  · rw [opIsr_handle, hhandled, stepRxFinish, hreceive, deliver_handle, popPorts_handle, hok, hhandle]
    rfl
  · rw [opIsr_trace, hhandled, stepRxFinish, interlude_of_nil hsched', htrace', hok,
      isrEntry_trace_of_nil (s := begin .isr s) h]
    simp [begin, List.count_eq_zero]


/-! ### The diagnostic frame -/

theorem errorFramesOf_append (es fs : List Event) : errorFramesOf (es ++ fs) = errorFramesOf es ++ errorFramesOf fs :=
  List.filterMap_append

theorem ensureEf_of_some {x : IsrState} {e : ErrorFrame} (h : x.1.ef = some e) : ensureEf x = x := by
  simp [ensureEf, h]

theorem ensureEf_of_ok {x : IsrState} (hef : x.1.ef = none) (hfailed : x.1.efFailed = false)
    (halloc : x.2.answers.alloc.head? = some true) : ensureEf x = ({ x.1 with ef := some {} }, allocStep x.2) := by
  simp [ensureEf, hef, hfailed, nextAlloc_of_head halloc]

theorem ensureEf_of_fail {x : IsrState} (hef : x.1.ef = none) (hfailed : x.1.efFailed = false)
    (halloc : x.2.answers.alloc.head? = some false) : ensureEf x = ({ x.1 with efFailed := true },
      (allocStep x.2).updStats fun t => { t with rxDropped := t.rxDropped + 1 }) := by
  simp [ensureEf, hef, hfailed, nextAlloc_of_head halloc]

/-- ERRCODE's fields are as stored, whatever its reserved bits read (40 R142). -/
theorem errcode_field {p : Params} (w fresh : Word) {i : Nat} (hi : i < 32)
    (h : p.errcodeType ≤ i ∧ i < p.errcodeType + 3 ∨ i = p.errcodeDir ∨ p.errcodeLoc ≤ i ∧ i < p.errcodeLoc + 16) :
    (withRsv (errcodeMask p) w fresh).getLsbD i = w.getLsbD i := by
  rw [withRsv_getLsbD, if_pos]
  simp only [errcodeMask, BitVec.getLsbD_or, fieldMask_getLsbD, bit_getLsbD]
  simpa [hi, or_assoc] using h

/-- The decode of ERRCODE looks at its fields alone (30 R110, 40 R142). -/
theorem errInfo_withRsv {p : Params} (hp : p.Admissible) (w fresh : Word) :
    errInfo p (withRsv (errcodeMask p) w fresh) = errInfo p w := by
  obtain ⟨hlocFit, hdirFit, htypeFit, -⟩ := hp.errcode
  have hkind : errKind p (withRsv (errcodeMask p) w fresh) = errKind p w := by
    have htype : (withRsv (errcodeMask p) w fresh).extractLsb' p.errcodeType 3 = w.extractLsb' p.errcodeType 3 := by
      apply BitVec.eq_of_getLsbD_eq
      intro i hi
      rw [BitVec.getLsbD_extractLsb', BitVec.getLsbD_extractLsb', errcode_field w fresh (by omega) (by omega)]
    rw [errKind, htype, errKind]
  have hdir : errDir p (withRsv (errcodeMask p) w fresh) = errDir p w := by
    rw [errDir, errcode_field w fresh hdirFit (.inr (.inl rfl)), errDir]
  have hloc : (withRsv (errcodeMask p) w fresh).extractLsb' p.errcodeLoc 16 = w.extractLsb' p.errcodeLoc 16 := by
    apply BitVec.eq_of_getLsbD_eq
    intro i hi
    rw [BitVec.getLsbD_extractLsb', BitVec.getLsbD_extractLsb', errcode_field w fresh (by omega) (by omega)]
  rw [errInfo, errLocation, hkind, hdir, hloc, errInfo, errLocation]

/-- A valid ERRCODE is read as stored in its fields (40 R142, 30 R110). -/
theorem errInfo_rd_errcode {s : State} (hp : s.params.Admissible) (h : s.schedule = []) (hvalid : s.dev.errcodeValid = true) :
    errInfo s.params (rd .errcode s).1 = errInfo s.params s.dev.errcode := by
  rw [rd_value, interlude_of_nil h, regValue, readErrcode, if_neg (by simp [hvalid]), errInfo_withRsv hp]

/-- Undisturbed, a bus error opens the diagnostic frame with the decode of a valid ERRCODE (45 R238). -/
theorem stepBusError_of_ok {x : IsrState} (hp : x.2.params.Admissible) (h : x.2.schedule = [])
    (hvalid : x.2.dev.errcodeValid = true) (hef : x.1.ef = none) (hfailed : x.1.efFailed = false)
    (halloc : x.2.answers.alloc.head? = some true) :
    (stepBusError x).1.ef = some { busError := some (errInfo x.2.params x.2.dev.errcode) }
      ∧ (stepBusError x).2.schedule = [] ∧ (stepBusError x).2.dev = x.2.dev
      ∧ errorFramesOf (stepBusError x).2.trace = errorFramesOf x.2.trace := by
  have hinfo := errInfo_rd_errcode (s := x.2.updStats fun t => { t with busError := t.busError + 1 }) hp h hvalid
  have hensure := ensureEf_of_ok (x := (x.1, (rd .errcode (x.2.updStats fun t => { t with busError := t.busError + 1 })).2))
    hef hfailed (by simpa using halloc)
  rw [stepBusError, hensure]
  refine ⟨congrArg (fun i => some ({ busError := some i } : ErrorFrame)) hinfo, by simp [editEf, h], ?_, ?_⟩
  · simp [editEf, h, interlude_of_nil, regAfterRead]
  · simp [editEf, h, interlude_of_nil, rd_trace, errorFramesOf]

/-- Undisturbed, a lost arbitration adds its code to the diagnostic frame (45 R241). -/
theorem stepArbitrationLost_of_some {x : IsrState} (h : x.2.schedule = []) {e : ErrorFrame} (hef : x.1.ef = some e) :
    (stepArbitrationLost x).1.ef = some { e with arbLost := some x.2.dev.lostarb }
      ∧ (stepArbitrationLost x).2.schedule = []
      ∧ errorFramesOf (stepArbitrationLost x).2.trace = errorFramesOf x.2.trace := by
  have hensure := ensureEf_of_some (x := (x.1, (rd .lostarb (x.2.updStats fun t =>
    { t with arbitrationLost := t.arbitrationLost + 1, txErrors := t.txErrors + 1 })).2)) hef
  rw [stepArbitrationLost, hensure]
  simp [editEf, h, hef, interlude_of_nil, rd_value, rd_trace, errorFramesOf, regValue]

/-- The handler delivers the diagnostic frame it has, and the acknowledge follows (45 R245, R246). -/
theorem errorFramesOf_opIsr {s : State} {x : IsrState} (hx : isrHandled s = deliverEf x) (h : x.2.schedule = []) :
    errorFramesOf (opIsr s).trace = errorFramesOf x.2.trace ++ x.1.ef.toList := by
  have hi : interlude (deliverEf x).2 = (deliverEf x).2 := interlude_of_nil (deliverEf_unchanged h).1
  rw [opIsr_trace, hx, hi, deliverEf]
  cases hef : x.1.ef with
  | none => simp [errorFramesOf]
  | some e => simp [errorFramesOf, interlude_of_nil h]

theorem errorFramesOf_isrEntry {s : State} (h : s.schedule = []) :
    errorFramesOf (isrEntry (begin .isr s)).2.trace = errorFramesOf s.trace := by
  rw [isrEntry_trace_of_nil (s := begin .isr s) h, errorFramesOf_append]
  exact List.append_nil _

/-- With the flags of the frame paths and the overrun clear, the handler comes to the target as it entered (45 R232). -/
theorem isrRecovered_of_clear {s : State} (hp : s.params.Admissible) (h : s.schedule = []) {allowed : List Nat}
    (honly : s.dev.OnlyFlags s.params allowed)
    (hallowed : ∀ n ∈ [s.params.intTxFinish, s.params.intRxFinish, s.params.intRxBufOv], n ∉ allowed) :
    isrRecovered s = isrEntry (begin .isr s) := by
  have clear (n : Nat) (hn : n ∈ [s.params.intTxFinish, s.params.intRxFinish, s.params.intRxBufOv]) :
      (isrEntry (begin .isr s)).1.status.getLsbD n = false :=
    status_of_onlyFlags hp h honly (by simp at hn ⊢; tauto) (hallowed n hn)
  rw [isrRecovered, isrBefore, whenFlag_of_clear (clear _ (by simp)), whenFlag_of_clear (clear _ (by simp)),
    whenFlag_of_clear (clear _ (by simp))]

/-- With BUS_ERR and TX_LOSTARB the only handled flags set, the handler diagnoses both (45 R238, R241). -/
theorem isrHandled_of_busErr_txLostarb {s : State} (hp : s.params.Admissible) (h : s.schedule = [])
    (honly : s.dev.OnlyFlags s.params [s.params.intBusErr, s.params.intTxLostarb])
    (hbus : s.dev.intFlag s.params.intBusErr = true) (hlost : s.dev.intFlag s.params.intTxLostarb = true) :
    isrHandled s = deliverEf (stepArbitrationLost (stepBusError (isrEntry (begin .isr s)))) := by
  obtain ⟨-, -, -, -, hltBus, -, hltLost, -⟩ := hp.int_lt
  obtain ⟨-, -, hothers, -⟩ := handledFlags_ne hp
  have hsame : (stepBusError (isrEntry (begin .isr s))).1.target
      = (stepBusError (isrEntry (begin .isr s))).2.handle.busState := by
    rw [stepBusError_target, stepBusError_handle (π := Handle.busState) fun _ _ => rfl]
    simp [isrEntry]
  have hpassive : (stepBusError (isrEntry (begin .isr s))).1.status.getLsbD s.params.intPassiveErr = false := by
    rw [stepBusError_status]
    exact status_of_onlyFlags hp h honly (by simp) (hothers _ (by simp))
  have hset : (stepBusError (isrEntry (begin .isr s))).1.status.getLsbD s.params.intTxLostarb = true := by
    rw [stepBusError_status]
    exact (status_getLsbD h hltLost).trans hlost
  rw [isrHandled_eq, isrRecovered_of_clear hp h honly fun n hn => hothers n (by simp at hn ⊢; tauto), isrAfter, isrTargets,
    whenFlag_of_clear (x := isrEntry (begin .isr s)) (status_of_onlyFlags hp h honly (by simp) (hothers _ (by simp))),
    whenFlag_of_set (x := isrEntry (begin .isr s)) ((status_getLsbD h hltBus).trans hbus), whenFlag_of_clear hpassive,
    stateUpdate_of_same hsame, whenFlag_of_set hset]

/-- Settles O52. -/
theorem isrDiagnosesBusErrorAndLostArbitration : Obligations.IsrDiagnosesBusErrorAndLostArbitration := by
  intro s hp hs h honly hbus hlost hvalid halloc
  obtain ⟨hsched, hdev, -⟩ := isrEntry_of_nil (s := begin .isr s) h
  have hparams : (isrEntry (begin .isr s)).2.params = s.params := isrEntry_params _
  obtain ⟨hef, hsched', hdev', hframes⟩ := stepBusError_of_ok (x := isrEntry (begin .isr s)) (by rwa [hparams]) hsched
    (by rwa [hdev]) rfl rfl (by simpa [isrEntry, begin] using halloc)
  obtain ⟨hef', hsched'', hframes'⟩ := stepArbitrationLost_of_some hsched' hef
  refine ⟨opIsr s, exec_opIsr hs, ?_⟩
  dsimp only
  rw [errorFramesOf_opIsr (isrHandled_of_busErr_txLostarb hp h honly hbus hlost) hsched'', hframes', hframes,
    errorFramesOf_isrEntry h, hef', hdev', hdev, hparams]
  rfl

/-! ### A new state -/

/-- The handler's state with the passive state stored, before it is attributed (45 R239, R242). -/
def isrPassive (s : State) : IsrState :=
  ({ (isrEntry (begin .isr s)).1 with target := .errorPassive },
    (isrEntry (begin .isr s)).2.updHandle fun h => { h with busState := .errorPassive })

/-- With PASSIVE_ERR the only handled flag set, the handler stores and attributes the passive state (45 R239, R242). -/
theorem isrHandled_of_passiveErr {s : State} (hp : s.params.Admissible) (h : s.schedule = [])
    (honly : s.dev.OnlyFlags s.params [s.params.intPassiveErr]) (hset : s.dev.intFlag s.params.intPassiveErr = true)
    (hactive : s.handle.busState = .errorActive) :
    isrHandled s = deliverEf (attributeState .errorPassive (isrPassive s)) := by
  obtain ⟨-, -, -, -, -, hlt, -⟩ := hp.int_lt
  obtain ⟨-, -, -, hothers⟩ := handledFlags_ne hp
  have clear {n : Nat} := status_of_onlyFlags hp h honly (n := n)
  have htarget : stepErrorPassive (isrEntry (begin .isr s))
      = ({ (isrEntry (begin .isr s)).1 with target := .errorPassive }, (isrEntry (begin .isr s)).2) := by
    have htoggle : toggle s.handle.busState = .errorPassive := by rw [hactive]; rfl
    rw [← htoggle]
    rfl
  have hbusState : (isrEntry (begin .isr s)).2.handle.busState = .errorActive := by simpa [isrEntry, begin] using hactive
  have hlost : (attributeState .errorPassive (isrPassive s)).1.status.getLsbD s.params.intTxLostarb = false := by
    have hstatus := (ensureEf_spec (isrPassive s)).1
    rw [attributeState, editEf, hstatus]
    exact clear (by simp) (hothers _ (by simp))
  have hupdate : stateUpdate (stepErrorPassive (isrEntry (begin .isr s))) = attributeState .errorPassive (isrPassive s) := by
    rw [htarget, stateUpdate, if_pos (by simp [hbusState])]
    rfl
  rw [isrHandled_eq, isrRecovered_of_clear hp h honly fun n hn => hothers n (by simp at hn ⊢; tauto), isrAfter, isrTargets,
    whenFlag_of_clear (x := isrEntry (begin .isr s)) (clear (by simp) (hothers _ (by simp))),
    whenFlag_of_clear (x := isrEntry (begin .isr s)) (clear (by simp) (hothers _ (by simp))),
    whenFlag_of_set (x := isrEntry (begin .isr s)) ((status_getLsbD h hlt).trans hset), hupdate, whenFlag_of_clear hlost]

/-- Undisturbed, the state is attributed in a diagnostic frame of its own, or a drop is counted (45 R240, R243). -/
theorem attributeState_of_nil {x : IsrState} (new : BusState) (h : x.2.schedule = []) (hef : x.1.ef = none)
    (hfailed : x.1.efFailed = false) :
    (attributeState new x).2.schedule = [] ∧ errorFramesOf (attributeState new x).2.trace = errorFramesOf x.2.trace
      ∧ (x.2.answers.alloc.head? = some true →
          (attributeState new x).1.ef = some { stateChange := some (attribution x.2.handle new) }
            ∧ (attributeState new x).2.handle.stats = x.2.handle.stats)
      ∧ (x.2.answers.alloc.head? = some false → (attributeState new x).1.ef = none
          ∧ (attributeState new x).2.handle.stats = { x.2.handle.stats with rxDropped := x.2.handle.stats.rxDropped + 1 }) := by
  refine ⟨?_, ?_, fun hok => ?_, fun hfail => ?_⟩
  case refine_3 => simp [attributeState, editEf, ensureEf_of_ok hef hfailed hok]
  case refine_4 => simp [attributeState, editEf, ensureEf_of_fail hef hfailed hfail, hef]
  all_goals
    obtain ⟨heq, -⟩ | ⟨-, -, -, heq⟩ | ⟨-, -, -, heq⟩ := ensureEf_cases x <;>
      simp [attributeState, editEf, heq, h, interlude_of_nil, errorFramesOf]

/-- Settles O53. -/
theorem isrAttributesTheStateChange : Obligations.IsrAttributesTheStateChange := by
  intro s hp hs h honly hset hactive
  obtain ⟨hsched, -, hhandle⟩ := isrEntry_of_nil (s := begin .isr s) h
  have hhandled := isrHandled_of_passiveErr hp h honly hset hactive
  have hanswers : (isrPassive s).2.answers = s.answers := by simp [isrPassive, isrEntry, begin]
  obtain ⟨hsched', hframes, hok, hfail⟩ := attributeState_of_nil (x := isrPassive s) .errorPassive hsched rfl rfl
  have hentry : errorFramesOf (isrPassive s).2.trace = errorFramesOf s.trace := errorFramesOf_isrEntry h
  have hpassive : (isrPassive s).2.handle = { s.handle with
      rxerr := s.dev.rxerrcnt, txerr := s.dev.txerrcnt, busState := .errorPassive } := by
    rw [isrPassive, State.updHandle_handle, hhandle]
    rfl
  have hfinal : (opIsr s).handle = (attributeState .errorPassive (isrPassive s)).2.handle := by
    rw [opIsr_handle, hhandled, deliverEf_handle]
  refine ⟨opIsr s, exec_opIsr hs, ?_, fun halloc => ?_, fun halloc => ?_⟩
  · rw [hfinal]
    exact ensureEf_handle (π := Handle.busState) (fun _ _ => rfl) (isrPassive s)
  · obtain ⟨hef, hsame⟩ := hok (by rwa [hanswers])
    rw [errorFramesOf_opIsr hhandled hsched', hframes, hef, hfinal, hsame, hentry, hpassive]
    exact ⟨rfl, rfl⟩
  · obtain ⟨hef, hdrop⟩ := hfail (by rwa [hanswers])
    rw [errorFramesOf_opIsr hhandled hsched', hframes, hef, hfinal, hdrop, hentry, hpassive]
    exact ⟨List.append_nil _, rfl⟩

end Sys2Proof.Machine
end
